-- ==== Sys2Proof/Word.lean ====
section
/-!
DEFINITION. The word types of the unit (00_scope.md R7): a byte, a 32-bit register value, byte strings.
Everything that shifts, masks or orders bytes stands in Machine/Bytes.lean.
-/

namespace Sys2Proof

/-- `u8` of 00_scope.md R7. -/
abbrev Byte := BitVec 8

/-- `u16`: the offset and length operands (00_scope.md R5, OFFSET_BITS and LENGTH_BITS). -/
abbrev Half := BitVec 16

/-- `u32`: a chip register value (00_scope.md R5, REG_VALUE_BITS). -/
abbrev Word := BitVec 32

/-- A byte string; index 0 is the first byte on the wire (00_scope.md R9). -/
abbrev Bytes := List Byte

end Sys2Proof
end

