-- ==== Sys2Proof/Config.lean ====
section
/-!
DEFINITION. The parameters of the unit, one constant per row of 00_scope.md R5 at the value the spec fixes, and
the free values: what the CHIP answers where nothing else says (93_implementation_defined.md A1 to A3, A7).
Rows the spec marks as general knowledge carry that mark here too (log 17).
-/

namespace Sys2Proof

/-- UID_LEN (source). -/
def Config.uidLen : Nat := 8
/-- BS_MIN, BS_MAX: bytes per block (source). -/
def Config.bsMin : Nat := 1
def Config.bsMax : Nat := 32
/-- NB_MIN, NB_MAX: number of blocks (source). -/
def Config.nbMin : Nat := 1
def Config.nbMax : Nat := 256
/-- REG_ADDR_BITS: a register address (source). -/
def Config.regAddrBits : Nat := 8
/-- REG_VALUE_BITS: a register value (source). -/
def Config.regValueBits : Nat := 32
/-- RX_COUNT_BITS: the received byte count (source). -/
def Config.rxCountBits : Nat := 9
/-- OFFSET_BITS and LENGTH_BITS of the MEM requests (decision D2). -/
def Config.offsetBits : Nat := 16
def Config.lengthBits : Nat := 16
/-- MAX_RX_BYTES, the largest value of the receive count. -/
def Config.maxRxBytes : Nat := 2 ^ Config.rxCountBits - 1
/-- MAX_TX_FRAME (decision D36, general knowledge). -/
def Config.maxTxFrame : Nat := 260
/-- T_A, phase A deadline in microseconds (source). -/
def Config.tA : Nat := 1000
/-- T_B, phase B deadline in microseconds (source). -/
def Config.tB : Nat := 50000
/-- P, poll period in microseconds (source). -/
def Config.pollPeriod : Nat := 1000
/-- SAMPLES_A = T_A / P + 1 (decision D9). -/
def Config.samplesA : Nat := Config.tA / Config.pollPeriod + 1
/-- SAMPLES_B = T_B / P + 1 (decision D9). -/
def Config.samplesB : Nat := Config.tB / Config.pollPeriod + 1
/-- DEFAULT_REQ_FLAGS (source). -/
def Config.defaultReqFlags : Byte := 0x02
/-- ADDR_FLAG (source). -/
def Config.addrFlag : Byte := 0x20
/-- INVENTORY_FLAGS (decision D19, general knowledge). -/
def Config.inventoryFlags : Byte := 0x26
/-- INVENTORY_MASK_LEN (decision D19, general knowledge). -/
def Config.inventoryMaskLen : Byte := 0x00
/-- NOANSWER_FLAGS (source). -/
def Config.noAnswerFlags : Byte := 0xFF
/-- INV_MIN_PAYLOAD (source). -/
def Config.invMinPayload : Nat := 9
/-- FILL_BYTE (decision D8, general knowledge). -/
def Config.fillByte : Byte := 0xFF
/-- IRQ_CLEAR_ALL (decision D7, general knowledge). -/
def Config.irqClearAll : Word := 0x000FFFFF
/-- REG_SYSTEM_CONFIG (decision D4, general knowledge; so are the four below). -/
def Config.regSystemConfig : Byte := 0x00
def Config.regIrqStatus : Byte := 0x02
def Config.regIrqClear : Byte := 0x03
def Config.regRxStatus : Byte := 0x13
def Config.regRfStatus : Byte := 0x1D
/-- COMMAND_MASK, SYSTEM_CONFIG bits [2:0] (decision D6, general knowledge). -/
def Config.commandMask : Word := 0x00000007
/-- MODE_IDLE and MODE_TRANSCEIVE (decision D6, general knowledge). -/
def Config.modeIdle : Word := 0
def Config.modeTransceive : Word := 3
/-- TS_LSB: the transceive-state field is RF_STATUS[26:24] (decision D4, general knowledge). -/
def Config.tsLsb : Nat := 24
/-- IRQ_RX_START_MASK, bit 14 (decision D4, general knowledge). -/
def Config.irqRxStartMask : Word := 0x00004000
/-- IRQ_RX_DONE_MASK, bit 0 (decision D4, general knowledge). -/
def Config.irqRxDoneMask : Word := 0x00000001
/-- RXN_LSB: the receive count is RX_STATUS[8:0] (decision D4, general knowledge). -/
def Config.rxnLsb : Nat := 0
/-- CHIP_OP_WRITE_REGISTER (decision D3, general knowledge; so are the six below). -/
def Config.chipOpWriteRegister : Byte := 0x00
def Config.chipOpWriteRegisterOrMask : Byte := 0x01
def Config.chipOpWriteRegisterAndMask : Byte := 0x02
def Config.chipOpReadRegister : Byte := 0x04
def Config.chipOpReadEeprom : Byte := 0x07
def Config.chipOpSendData : Byte := 0x09
def Config.chipOpReadData : Byte := 0x0A
/-- WAIT_TRANSMIT, the one transceive-state code a rule distinguishes (10_state.md R42). -/
def Config.waitTransmit : BitVec 3 := 1

/-- ISO15693_EDITION and PN5180_FW_VERSION: open, and read by no rule (00_scope.md R1, R5; 93 A31; log 17). -/
opaque Config.iso15693Edition : Nat
opaque Config.pn5180FwVersion : Nat

/-- The widths of R5 are those of the model's types: `Byte`, `Word`, `Half`, the count register `rxn` and `Uid`
(log 17). -/
def Config.widthsFit : Bool :=
  decide (Config.regAddrBits = 8) && decide (Config.regValueBits = 32) && decide (Config.rxCountBits = 9)
    && decide (Config.maxRxBytes = 511) && decide (Config.offsetBits = 16) && decide (Config.lengthBits = 16)
    && decide (Config.uidLen = 8)

/-- 00_scope.md R6, 93 A15: the deadlines are whole multiples of a nonzero poll period; and the widths are those the
model has (log 17). -/
def Config.valid : Bool :=
  decide (0 < Config.pollPeriod) && decide (Config.tA % Config.pollPeriod = 0)
    && decide (Config.tB % Config.pollPeriod = 0) && Config.widthsFit

/-- A bound on the unit steps one request takes: the mapper's 256 chunks of at most
`2 SAMPLES_A + 2 SAMPLES_B + 8` steps each, and the steps before and after (70_reset_and_hazards.md R336). -/
def Config.maxSteps : Nat := 256 * (2 * Config.samplesA + 2 * Config.samplesB + 8) + 8

/-- FREE VALUE (93 A2; log 6): whether exchange number `n` fails, where HOST's tape of answers says nothing. -/
opaque Config.chipFails : Nat → Bool

/-- FREE VALUE (93 A1, A3, A7; log 6, log 7): byte `i` of the CHIP's answer to exchange number `n`, where the
tape says nothing. -/
opaque Config.chipByte : Nat → Nat → Byte

end Sys2Proof
end

