-- ==== Sys2Proof/Syntax.lean ====
section
/-!
DEFINITION. The instructions: one constructor per row of spec/opcode_table.json. The unit's "instructions" are
requests (00_scope.md R2): eleven HOST_REQ ops, twenty-one ISO_REQ commands (each ISO_CMD with its code, 30 R111)
and the seven CHIP_CMD commands the chip port sends.
-/

namespace Sys2Proof

/-- A UID: exactly eight bytes in wire order (00_scope.md R11, 20_memory.md R66). -/
structure Uid where
  b0 : Byte
  b1 : Byte
  b2 : Byte
  b3 : Byte
  b4 : Byte
  b5 : Byte
  b6 : Byte
  b7 : Byte
  deriving DecidableEq, Repr

/-- A Tag record `(uid, bs, nb)` (10_state.md R44). Its ranges are checked by the mapper (R45, 44 R251). -/
structure TagRec where
  uid : Uid
  bs : Nat
  nb : Nat
  deriving DecidableEq, Repr

/-- The `args` operand of ISO_CMD, one shape per layout of 30_encoding.md R94. -/
inductive IsoArgs where
  /-- no operand -/
  | none
  /-- `block` -/
  | block (block : Byte)
  /-- `block`, `data` -/
  | blockData (block : Byte) (data : Bytes)
  /-- `first`, `count` -/
  | range (first : Byte) (count : Nat)
  /-- `first`, `count`, `data` -/
  | rangeData (first : Byte) (count : Nat) (data : Bytes)
  /-- `afi` or `dsfid` -/
  | value (v : Byte)
  /-- `raw` -/
  | raw (raw : Bytes)
  deriving DecidableEq, Repr

inductive Instr where
  -- HOST_REQ (30_encoding.md R87)
  /-- op 0x01, 41 R161 -/
  | transceive (frame : Bytes)
  /-- op 0x02, 42 R180 -/
  | isoCmd (cmd flags : Byte) (uid : Option Uid) (args : IsoArgs)
  /-- op 0x03, 44 R256 -/
  | memRead (tag : TagRec) (offset length : Half)
  /-- op 0x04, 44 R259 -/
  | memWrite (tag : TagRec) (offset : Half) (data : Bytes)
  /-- op 0x05, 40 R127 -/
  | chipIdle
  /-- op 0x06, 42 R204 -/
  | isoRaw (code flags : Byte) (uid : Option Uid) (raw : Bytes)
  /-- op 0x10, 40 R128 -/
  | regWrite (addr : Byte) (value : Word)
  /-- op 0x11, 40 R129 -/
  | regOr (addr : Byte) (mask : Word)
  /-- op 0x12, 40 R130 -/
  | regAnd (addr : Byte) (mask : Word)
  /-- op 0x13, 40 R131 -/
  | regRead (addr : Byte)
  /-- op 0x14, 40 R132 -/
  | eepromRead (addr len : Byte)
  -- ISO_REQ (30_encoding.md R94)
  /-- code 0x01, 42 R183 -/
  | inventory
  /-- code 0x02, 42 R184 -/
  | stayQuiet (flags : Byte) (uid : Option Uid)
  /-- code 0x20, 42 R185 -/
  | readSingleBlock (flags : Byte) (uid : Option Uid) (block : Byte)
  /-- code 0x21, 42 R186 -/
  | writeSingleBlock (flags : Byte) (uid : Option Uid) (block : Byte) (data : Bytes)
  /-- code 0x22, 42 R187 -/
  | lockBlock (flags : Byte) (uid : Option Uid) (block : Byte)
  /-- code 0x23, 42 R188 -/
  | readMultipleBlock (flags : Byte) (uid : Option Uid) (first : Byte) (count : Nat)
  /-- code 0x24, 42 R189 -/
  | writeMultipleBlock (flags : Byte) (uid : Option Uid) (first : Byte) (count : Nat) (data : Bytes)
  /-- code 0x25, 42 R190 -/
  | select (flags : Byte) (uid : Option Uid)
  /-- code 0x26, 42 R191 -/
  | resetToReady (flags : Byte) (uid : Option Uid)
  /-- code 0x27, 42 R192 -/
  | writeAfi (flags : Byte) (uid : Option Uid) (afi : Byte)
  /-- code 0x28, 42 R193 -/
  | lockAfi (flags : Byte) (uid : Option Uid)
  /-- code 0x29, 42 R194 -/
  | writeDsfid (flags : Byte) (uid : Option Uid) (dsfid : Byte)
  /-- code 0x2A, 42 R195 -/
  | lockDsfid (flags : Byte) (uid : Option Uid)
  /-- code 0x2B, 42 R196 -/
  | getSystemInformation (flags : Byte) (uid : Option Uid)
  /-- code 0x2C, 42 R197 -/
  | getMultipleBlockSecurityStatus (flags : Byte) (uid : Option Uid) (first : Byte) (count : Nat)
  /-- code 0xC0, 42 R198 -/
  | vendorC0 (flags : Byte) (uid : Option Uid) (raw : Bytes)
  /-- code 0xC1, 42 R199 -/
  | vendorC1 (flags : Byte) (uid : Option Uid) (raw : Bytes)
  /-- code 0xC2, 42 R200 -/
  | vendorC2 (flags : Byte) (uid : Option Uid) (raw : Bytes)
  /-- code 0xC3, 42 R201 -/
  | vendorC3 (flags : Byte) (uid : Option Uid) (raw : Bytes)
  /-- code 0xC4, 42 R202 -/
  | vendorC4 (flags : Byte) (uid : Option Uid) (raw : Bytes)
  /-- any code, the raw frame of 30 R102, 42 R204 -/
  | raw (code flags : Byte) (uid : Option Uid) (raw : Bytes)
  -- CHIP_CMD (30_encoding.md R90)
  /-- opcode 0x00, 40 R117 -/
  | writeRegister (addr : Byte) (value : Word)
  /-- opcode 0x01, 40 R118 -/
  | writeRegisterOrMask (addr : Byte) (mask : Word)
  /-- opcode 0x02, 40 R119 -/
  | writeRegisterAndMask (addr : Byte) (mask : Word)
  /-- opcode 0x04, 40 R120 -/
  | readRegister (addr : Byte)
  /-- opcode 0x07, 40 R121 -/
  | readEeprom (addr len : Byte)
  /-- opcode 0x09, 40 R122 -/
  | sendData (frame : Bytes)
  /-- opcode 0x0A, 40 R123; the number of bytes read is the register `rxn` -/
  | readData
  deriving DecidableEq, Repr

end Sys2Proof
end

