-- ==== Sys2Proof/Machine/Bytes.lean ====
section
/-!
DEFINITION. Bit fields, byte order and byte strings (00_scope.md R7 to R9).
-/

namespace Sys2Proof

/-- `v[lo+w-1 : lo]` read as an unsigned number (R8). -/
def bitField (w : Nat) (lo : Nat) (v : Word) : BitVec w := v.extractLsb' lo w

/-- `zext_N(v)` (R8). -/
def zext {w : Nat} (n : Nat) (v : BitVec w) : BitVec n := v.setWidth n

/-- `sext_N(v)`, which no rule of the unit uses (R8). -/
def sext {w : Nat} (n : Nat) (v : BitVec w) : BitVec n := v.signExtend n

/-- `roundUp(a, b)` for `b ≥ 1` (R7). -/
def roundUp (a b : Nat) : Nat := ((a + b - 1) / b) * b

/-- `le32(v)` (R9). -/
def le32 (v : Word) : Bytes :=
  [v.extractLsb' 0 8, v.extractLsb' 8 8, v.extractLsb' 16 8, v.extractLsb' 24 8]

/-- `u32le(s)`, the inverse of `le32` on a 4-byte string (R9); missing bytes count as 0. -/
def u32le (s : Bytes) : Word :=
  (s.getD 0 0).setWidth 32 ||| (s.getD 1 0).setWidth 32 <<< 8
    ||| (s.getD 2 0).setWidth 32 <<< 16 ||| (s.getD 3 0).setWidth 32 <<< 24

/-- The two bytes of a 16-bit operand, low byte first (log 1). -/
def le16 (v : Half) : Bytes := [v.extractLsb' 0 8, v.extractLsb' 8 8]

/-- `zeros(n)` (R9). -/
def zeros (n : Nat) : Bytes := List.replicate n 0

/-- `rep(b, n)` (R9). -/
def rep (b : Byte) (n : Nat) : Bytes := List.replicate n b

/-- `s[i..j)` (R9). -/
def slice (s : Bytes) (i j : Nat) : Bytes := (s.drop i).take (j - i)

/-- The eight bytes of a UID in wire order (20_memory.md R66). -/
def Uid.bytes (u : Uid) : Bytes := [u.b0, u.b1, u.b2, u.b3, u.b4, u.b5, u.b6, u.b7]

/-- `uidField` of a frame: the UID's bytes, or nothing (30_encoding.md R91). -/
def uidField : Option Uid → Bytes
  | some u => u.bytes
  | none => []

/-- The first eight bytes as a UID, and the rest. -/
def takeUid : Bytes → Option (Uid × Bytes)
  | b0 :: b1 :: b2 :: b3 :: b4 :: b5 :: b6 :: b7 :: rest =>
      some (⟨b0, b1, b2, b3, b4, b5, b6, b7⟩, rest)
  | _ => none

/-- The first two bytes as a 16-bit operand, low byte first, and the rest. -/
def takeLe16 : Bytes → Option (Half × Bytes)
  | b0 :: b1 :: rest => some (b1 ++ b0, rest)
  | _ => none

/-- A 32-bit operand that is the whole of the bytes left. -/
def onlyLe32 : Bytes → Option Word
  | [b0, b1, b2, b3] => some (u32le [b0, b1, b2, b3])
  | _ => none

end Sys2Proof
end

