-- ==== Sys2Proof/WellFormed.lean ====
section
/-!
DEFINITION. Well-formed instructions: every operand is inside the range the spec gives it (30_encoding.md R87, R88,
R94) and can be written in the bits its encoding has. An ISO_REQ frame says with bit 0x20 of its flags byte whether a
UID follows (R86, R93), so a well-formed ISO_REQ term has that bit set exactly when it has a UID.
-/

namespace Sys2Proof

/-- Bit 0x20 of the flags says what the UID operand says (30 R93). -/
def flagsCanonical (flags : Byte) (uid : Option Uid) : Bool :=
  flags.getLsbD 5 == uid.isSome

/-- The length of a UID field: UID_LEN or 0 (30 R91). -/
def uidFieldLen (uid : Option Uid) : Nat := if uid.isSome then Config.uidLen else 0

/-- A block count operand, 1..256 (30 R94, R95). -/
def countInRange (count : Nat) : Bool := decide (1 ≤ count) && decide (count ≤ 256)

/-- Which shapes of `args` a command code takes and with what ranges; no shape for a code outside R94's table. -/
def isoArgsWellFormed (cmd : Byte) (args : IsoArgs) : Bool :=
  match cmd.toNat, args with
  | 0x01, .none | 0x02, .none | 0x25, .none | 0x26, .none => true
  | 0x28, .none | 0x2A, .none | 0x2B, .none => true
  | 0x20, .block _ | 0x22, .block _ => true
  | 0x21, .blockData _ data => decide (1 ≤ data.length) && decide (data.length ≤ 32)
  | 0x23, .range _ count | 0x2C, .range _ count => countInRange count
  | 0x24, .rangeData _ count data => countInRange count && decide (1 ≤ data.length)
  | 0x27, .value _ | 0x29, .value _ => true
  | 0xC0, .raw _ | 0xC1, .raw _ | 0xC2, .raw _ | 0xC3, .raw _ | 0xC4, .raw _ => true
  | _, _ => false

/-- The bytes an `args` operand adds to the frame (30 R94, R107). -/
def isoArgsLen : IsoArgs → Nat
  | .none => 0
  | .block _ => 1
  | .blockData _ data => 1 + data.length
  | .range _ _ => 2
  | .rangeData _ _ data => 2 + data.length
  | .value _ => 1
  | .raw raw => raw.length

/-- A whole frame of `2 + uid + n` bytes fits the transmit buffer (30 R88 (4)). -/
def frameFits (uid : Option Uid) (n : Nat) : Bool :=
  decide (2 + uidFieldLen uid + n ≤ Config.maxTxFrame)

def Instr.wellFormed : Instr → Bool
  | .transceive frame => decide (1 ≤ frame.length) && decide (frame.length ≤ Config.maxTxFrame)
  | .isoCmd cmd _ uid args =>
      isoArgsWellFormed cmd args && frameFits uid (isoArgsLen args)
        && (decide (cmd ≠ 0x01) || uid.isNone)
  | .memRead tag _ _ => decide (tag.bs < 65536) && decide (tag.nb < 65536)
  | .memWrite tag _ data =>
      decide (tag.bs < 65536) && decide (tag.nb < 65536) && decide (data.length ≤ 65535)
  | .chipIdle => true
  | .isoRaw _ _ uid bs => frameFits uid bs.length
  | .regWrite _ _ | .regOr _ _ | .regAnd _ _ | .regRead _ => true
  | .eepromRead _ len => decide (1 ≤ len.toNat)
  | .inventory => true
  | .stayQuiet flags uid | .select flags uid | .resetToReady flags uid | .lockAfi flags uid
  | .lockDsfid flags uid | .getSystemInformation flags uid => flagsCanonical flags uid
  | .readSingleBlock flags uid _ | .lockBlock flags uid _ | .writeAfi flags uid _
  | .writeDsfid flags uid _ => flagsCanonical flags uid
  | .writeSingleBlock flags uid _ data =>
      flagsCanonical flags uid && decide (1 ≤ data.length) && decide (data.length ≤ 32)
  | .readMultipleBlock flags uid _ count | .getMultipleBlockSecurityStatus flags uid _ count =>
      flagsCanonical flags uid && countInRange count
  | .writeMultipleBlock flags uid _ count data =>
      flagsCanonical flags uid && countInRange count && decide (1 ≤ data.length)
        && frameFits uid (2 + data.length)
  | .vendorC0 flags uid bs | .vendorC1 flags uid bs | .vendorC2 flags uid bs
  | .vendorC3 flags uid bs | .vendorC4 flags uid bs =>
      flagsCanonical flags uid && frameFits uid bs.length
  | .raw _ flags uid bs => flagsCanonical flags uid && frameFits uid bs.length
  | .writeRegister _ _ | .writeRegisterOrMask _ _ | .writeRegisterAndMask _ _ | .readRegister _ => true
  | .readEeprom _ len => decide (1 ≤ len.toNat)
  | .sendData frame => decide (1 ≤ frame.length) && decide (frame.length ≤ Config.maxTxFrame)
  | .readData => true

end Sys2Proof
end

