-- ==== Sys2Proof/Decode.lean ====
section
/-!
DEFINITION. The decoder, total on any bytes and rejecting by name, and after it the encoder. Three of the formats are
frames the spec lays out byte by byte (30_encoding.md R90, R91, R94). A HOST_REQ is a typed record in the spec (R86);
its bytes here are the model's: the op, then the operands of R87 in order, 16- and 32-bit ones low byte first, byte
strings last (log 1).
-/

namespace Sys2Proof

/-- The formats an instruction's bytes can have (30 R85). `isoRaw` is an ISO request frame read as RAW, which is
chosen by the request and never by the code (30 R102, R112). -/
inductive Format where
  | hostReq
  | isoReq
  | isoRaw
  | chipCmd
  deriving DecidableEq, Repr

inductive DecodeError where
  /-- no selecting byte -/
  | empty
  /-- an op not in R87's table (R101) -/
  | unknownOp (op : Byte)
  /-- an ISO code not in R94's table (R102) -/
  | unknownCommand (code : Byte)
  /-- a chip opcode not in R90's table (R103) -/
  | unknownChipOpcode (opcode : Byte)
  /-- operand bytes missing or left over, or a frame byte that must be fixed is not -/
  | operands (selector : Byte)
  deriving DecidableEq, Repr

/-- The layouts of 30 R94. -/
inductive ArgShape where
  | none
  | block
  | blockData
  | range
  | rangeData
  | value
  | raw
  deriving DecidableEq, Repr

/-- R94's table: which layout a command code has; no layout for a code outside it (R102). -/
def isoShape (code : Byte) : Option ArgShape :=
  match code.toNat with
  | 0x01 | 0x02 | 0x25 | 0x26 | 0x28 | 0x2A | 0x2B => some .none
  | 0x20 | 0x22 => some .block
  | 0x21 => some .blockData
  | 0x23 | 0x2C => some .range
  | 0x24 => some .rangeData
  | 0x27 | 0x29 => some .value
  | 0xC0 | 0xC1 | 0xC2 | 0xC3 | 0xC4 => some .raw
  | _ => none

/-- The parameters after `uidField` in a frame: the count field holds `count − 1` (R94, R95). -/
def frameArgs : ArgShape → Bytes → Option IsoArgs
  | .none, [] => some .none
  | .block, [b] => some (.block b)
  | .blockData, b :: data => some (.blockData b data)
  | .range, [f, c] => some (.range f (c.toNat + 1))
  | .rangeData, f :: c :: data => some (.rangeData f (c.toNat + 1) data)
  | .value, [v] => some (.value v)
  | .raw, bs => some (.raw bs)
  | _, _ => none

/-- The `args` operand in a request record: the count operand itself, 16 bits (log 1). -/
def recordArgs : ArgShape → Bytes → Option IsoArgs
  | .none, [] => some .none
  | .block, [b] => some (.block b)
  | .blockData, b :: data => some (.blockData b data)
  | .range, [f, c0, c1] => some (.range f (c1 ++ c0).toNat)
  | .rangeData, f :: c0 :: c1 :: data => some (.rangeData f (c1 ++ c0).toNat data)
  | .value, [v] => some (.value v)
  | .raw, bs => some (.raw bs)
  | _, _ => none

/-- The ISO_REQ row of a command code. -/
def isoInstr (code flags : Byte) (uid : Option Uid) (args : IsoArgs) : Option Instr :=
  match code.toNat, args with
  | 0x02, .none => some (.stayQuiet flags uid)
  | 0x20, .block b => some (.readSingleBlock flags uid b)
  | 0x21, .blockData b data => some (.writeSingleBlock flags uid b data)
  | 0x22, .block b => some (.lockBlock flags uid b)
  | 0x23, .range f c => some (.readMultipleBlock flags uid f c)
  | 0x24, .rangeData f c data => some (.writeMultipleBlock flags uid f c data)
  | 0x25, .none => some (.select flags uid)
  | 0x26, .none => some (.resetToReady flags uid)
  | 0x27, .value v => some (.writeAfi flags uid v)
  | 0x28, .none => some (.lockAfi flags uid)
  | 0x29, .value v => some (.writeDsfid flags uid v)
  | 0x2A, .none => some (.lockDsfid flags uid)
  | 0x2B, .none => some (.getSystemInformation flags uid)
  | 0x2C, .range f c => some (.getMultipleBlockSecurityStatus flags uid f c)
  | 0xC0, .raw bs => some (.vendorC0 flags uid bs)
  | 0xC1, .raw bs => some (.vendorC1 flags uid bs)
  | 0xC2, .raw bs => some (.vendorC2 flags uid bs)
  | 0xC3, .raw bs => some (.vendorC3 flags uid bs)
  | 0xC4, .raw bs => some (.vendorC4 flags uid bs)
  | _, _ => none

/-- An optional field: taken by `take` when its presence bit says so. -/
def takeIf {α : Type} (present : Bool) (take : Bytes → Option (α × Bytes)) (bs : Bytes) :
    Option (Option α × Bytes) :=
  if present then (take bs).map fun p => (some p.1, p.2) else some (none, bs)

def takeByte : Bytes → Option (Byte × Bytes)
  | b :: rest => some (b, rest)
  | [] => none

/-- The presence byte of a record with optional operands (log 1): bit 0 a UID is supplied, bit 1 the flags are
(without them the flags are the default of R87); the other bits are 0. -/
def takeFlagsUid : Bytes → Option ((Byte × Option Uid) × Bytes)
  | [] => none
  | p :: rest =>
    if p.toNat < 4 then do
      let (flags, rest) ← takeIf (p.getLsbD 1) takeByte rest
      let (uid, rest) ← takeIf (p.getLsbD 0) takeUid rest
      some ((flags.getD Config.defaultReqFlags, uid), rest)
    else none

/-- A Tag record's bytes: the UID, then `bs` and `nb`, two bytes each, low byte first (log 1). -/
def takeTag (bs : Bytes) : Option (TagRec × Bytes) := do
  let (uid, bs) ← takeUid bs
  let (size, bs) ← takeLe16 bs
  let (blocks, bs) ← takeLe16 bs
  some (⟨uid, size.toNat, blocks.toNat⟩, bs)

/-- The operands of a HOST_REQ op (R87); `none` where operand bytes are missing or left over. -/
def hostOperands (op : Byte) (bs : Bytes) : Option Instr :=
  match op.toNat with
  | 0x01 => some (.transceive bs)
  | 0x02 => do
      let (cmd, bs) ← takeByte bs
      let ((flags, uid), bs) ← takeFlagsUid bs
      let args ← recordArgs ((isoShape cmd).getD .raw) bs
      some (.isoCmd cmd flags uid args)
  | 0x03 => do
      let (tag, bs) ← takeTag bs
      let (offset, bs) ← takeLe16 bs
      let (length, bs) ← takeLe16 bs
      if bs = [] then some (.memRead tag offset length) else none
  | 0x04 => do
      let (tag, bs) ← takeTag bs
      let (offset, data) ← takeLe16 bs
      some (.memWrite tag offset data)
  | 0x05 => if bs = [] then some .chipIdle else none
  | 0x06 => do
      let (code, bs) ← takeByte bs
      let ((flags, uid), raw) ← takeFlagsUid bs
      some (.isoRaw code flags uid raw)
  | 0x10 => do
      let (addr, bs) ← takeByte bs
      let value ← onlyLe32 bs
      some (.regWrite addr value)
  | 0x11 => do
      let (addr, bs) ← takeByte bs
      let mask ← onlyLe32 bs
      some (.regOr addr mask)
  | 0x12 => do
      let (addr, bs) ← takeByte bs
      let mask ← onlyLe32 bs
      some (.regAnd addr mask)
  | 0x13 => match bs with
      | [addr] => some (.regRead addr)
      | _ => none
  | 0x14 => match bs with
      | [addr, len] => some (.eepromRead addr len)
      | _ => none
  | _ => none

/-- The op codes of R87. -/
def isHostOp (op : Byte) : Bool :=
  match op.toNat with
  | 0x01 | 0x02 | 0x03 | 0x04 | 0x05 | 0x06 | 0x10 | 0x11 | 0x12 | 0x13 | 0x14 => true
  | _ => false

def decodeHost : Bytes → Except DecodeError Instr
  | [] => .error .empty
  | op :: bs =>
    if isHostOp op then
      match hostOperands op bs with
      | some i => .ok i
      | none => .error (.operands op)
    else .error (.unknownOp op)

/-- The operands of an ISO request frame after its code byte: the UID when bit 0x20 of the flags is set, for every
command but INVENTORY (R86), then the parameters. -/
def isoOperands (code flags : Byte) (shape : ArgShape) (bs : Bytes) : Option Instr :=
  if code = 0x01 then
    if flags = Config.inventoryFlags ∧ bs = [Config.inventoryMaskLen] then some .inventory else none
  else do
    let (uid, bs) ← takeIf (flags.getLsbD 5) takeUid bs
    let args ← frameArgs shape bs
    isoInstr code flags uid args

def decodeIso : Bytes → Except DecodeError Instr
  | flags :: code :: bs =>
    match isoShape code with
    | none => .error (.unknownCommand code)
    | some shape =>
      match isoOperands code flags shape bs with
      | some i => .ok i
      | none => .error (.operands code)
  | _ => .error .empty

/-- A frame read as RAW: any code, the parameters verbatim (30 R94, R102). -/
def decodeIsoRaw : Bytes → Except DecodeError Instr
  | flags :: code :: bs =>
    match takeIf (flags.getLsbD 5) takeUid bs with
    | some (uid, raw) => .ok (.raw code flags uid raw)
    | none => .error (.operands code)
  | _ => .error .empty

/-- The operands of a chip command frame (30 R90). -/
def chipOperands (opcode : Byte) (bs : Bytes) : Option Instr :=
  if opcode = Config.chipOpWriteRegister then do
    let (addr, bs) ← takeByte bs
    let value ← onlyLe32 bs
    some (.writeRegister addr value)
  else if opcode = Config.chipOpWriteRegisterOrMask then do
    let (addr, bs) ← takeByte bs
    let mask ← onlyLe32 bs
    some (.writeRegisterOrMask addr mask)
  else if opcode = Config.chipOpWriteRegisterAndMask then do
    let (addr, bs) ← takeByte bs
    let mask ← onlyLe32 bs
    some (.writeRegisterAndMask addr mask)
  else if opcode = Config.chipOpReadRegister then
    match bs with
    | [addr] => some (.readRegister addr)
    | _ => none
  else if opcode = Config.chipOpReadEeprom then
    match bs with
    | [addr, len] => some (.readEeprom addr len)
    | _ => none
  else if opcode = Config.chipOpSendData then
    match bs with
    | validBits :: frame => if validBits = 0 then some (.sendData frame) else none
    | _ => none
  else if opcode = Config.chipOpReadData then
    if bs = [0] then some .readData else none
  else none

/-- The seven chip opcodes of R90. -/
def isChipOpcode (opcode : Byte) : Bool :=
  decide (opcode ∈ [Config.chipOpWriteRegister, Config.chipOpWriteRegisterOrMask,
    Config.chipOpWriteRegisterAndMask, Config.chipOpReadRegister, Config.chipOpReadEeprom,
    Config.chipOpSendData, Config.chipOpReadData])

def decodeChip : Bytes → Except DecodeError Instr
  | [] => .error .empty
  | opcode :: bs =>
    if isChipOpcode opcode then
      match chipOperands opcode bs with
      | some i => .ok i
      | none => .error (.operands opcode)
    else .error (.unknownChipOpcode opcode)

def decode : Format → Bytes → Except DecodeError Instr
  | .hostReq, bs => decodeHost bs
  | .isoReq, bs => decodeIso bs
  | .isoRaw, bs => decodeIsoRaw bs
  | .chipCmd, bs => decodeChip bs

/-! ## The encoder -/

/-- Byte 0 of a frame: bit 0x20 is set exactly when a UID is supplied (30 R93). -/
def reqFlags (flags : Byte) (uid : Option Uid) : Byte :=
  (flags &&& ~~~Config.addrFlag) ||| (if uid.isSome then Config.addrFlag else 0)

/-- The zero-based block-count field (30 R95). -/
def countField (count : Nat) : Byte := BitVec.ofNat 8 (count - 1)

/-- The parameters after `uidField` (30 R94). -/
def frameParams : IsoArgs → Bytes
  | .none => []
  | .block b => [b]
  | .blockData b data => b :: data
  | .range f c => [f, countField c]
  | .rangeData f c data => f :: countField c :: data
  | .value v => [v]
  | .raw bs => bs

/-- An ISO request frame other than INVENTORY's (30 R91). -/
def isoFrame (code flags : Byte) (uid : Option Uid) (args : IsoArgs) : Bytes :=
  reqFlags flags uid :: code :: (uidField uid ++ frameParams args)

/-- INVENTORY's frame (42 R183). -/
def inventoryFrame : Bytes := [Config.inventoryFlags, 0x01, Config.inventoryMaskLen]

/-- The `args` operand in a request record (log 1). -/
def recordParams : IsoArgs → Bytes
  | .none => []
  | .block b => [b]
  | .blockData b data => b :: data
  | .range f c => f :: le16 (BitVec.ofNat 16 c)
  | .rangeData f c data => f :: (le16 (BitVec.ofNat 16 c) ++ data)
  | .value v => [v]
  | .raw bs => bs

/-- The presence byte, the flags and the UID of a record; the encoder always writes the flags. -/
def recordFlagsUid (flags : Byte) (uid : Option Uid) : Bytes :=
  (if uid.isSome then 3 else 2) :: flags :: uidField uid

/-- A Tag record in a request record: the UID, then `bs` and `nb`, two bytes each, low byte first (log 1). -/
def tagBytes (tag : TagRec) : Bytes :=
  tag.uid.bytes ++ (le16 (BitVec.ofNat 16 tag.bs) ++ le16 (BitVec.ofNat 16 tag.nb))

def encode : Instr → Format × Bytes
  | .transceive frame => (.hostReq, 0x01 :: frame)
  | .isoCmd cmd flags uid args =>
      (.hostReq, 0x02 :: cmd :: (recordFlagsUid flags uid ++ recordParams args))
  | .memRead tag offset length => (.hostReq, 0x03 :: (tagBytes tag ++ (le16 offset ++ le16 length)))
  | .memWrite tag offset data => (.hostReq, 0x04 :: (tagBytes tag ++ (le16 offset ++ data)))
  | .chipIdle => (.hostReq, [0x05])
  | .isoRaw code flags uid raw => (.hostReq, 0x06 :: code :: (recordFlagsUid flags uid ++ raw))
  | .regWrite addr value => (.hostReq, 0x10 :: addr :: le32 value)
  | .regOr addr mask => (.hostReq, 0x11 :: addr :: le32 mask)
  | .regAnd addr mask => (.hostReq, 0x12 :: addr :: le32 mask)
  | .regRead addr => (.hostReq, [0x13, addr])
  | .eepromRead addr len => (.hostReq, [0x14, addr, len])
  | .inventory => (.isoReq, inventoryFrame)
  | .stayQuiet flags uid => (.isoReq, isoFrame 0x02 flags uid .none)
  | .readSingleBlock flags uid block => (.isoReq, isoFrame 0x20 flags uid (.block block))
  | .writeSingleBlock flags uid block data => (.isoReq, isoFrame 0x21 flags uid (.blockData block data))
  | .lockBlock flags uid block => (.isoReq, isoFrame 0x22 flags uid (.block block))
  | .readMultipleBlock flags uid first count => (.isoReq, isoFrame 0x23 flags uid (.range first count))
  | .writeMultipleBlock flags uid first count data =>
      (.isoReq, isoFrame 0x24 flags uid (.rangeData first count data))
  | .select flags uid => (.isoReq, isoFrame 0x25 flags uid .none)
  | .resetToReady flags uid => (.isoReq, isoFrame 0x26 flags uid .none)
  | .writeAfi flags uid afi => (.isoReq, isoFrame 0x27 flags uid (.value afi))
  | .lockAfi flags uid => (.isoReq, isoFrame 0x28 flags uid .none)
  | .writeDsfid flags uid dsfid => (.isoReq, isoFrame 0x29 flags uid (.value dsfid))
  | .lockDsfid flags uid => (.isoReq, isoFrame 0x2A flags uid .none)
  | .getSystemInformation flags uid => (.isoReq, isoFrame 0x2B flags uid .none)
  | .getMultipleBlockSecurityStatus flags uid first count =>
      (.isoReq, isoFrame 0x2C flags uid (.range first count))
  | .vendorC0 flags uid raw => (.isoReq, isoFrame 0xC0 flags uid (.raw raw))
  | .vendorC1 flags uid raw => (.isoReq, isoFrame 0xC1 flags uid (.raw raw))
  | .vendorC2 flags uid raw => (.isoReq, isoFrame 0xC2 flags uid (.raw raw))
  | .vendorC3 flags uid raw => (.isoReq, isoFrame 0xC3 flags uid (.raw raw))
  | .vendorC4 flags uid raw => (.isoReq, isoFrame 0xC4 flags uid (.raw raw))
  | .raw code flags uid raw => (.isoRaw, isoFrame code flags uid (.raw raw))
  | .writeRegister addr value => (.chipCmd, Config.chipOpWriteRegister :: addr :: le32 value)
  | .writeRegisterOrMask addr mask => (.chipCmd, Config.chipOpWriteRegisterOrMask :: addr :: le32 mask)
  | .writeRegisterAndMask addr mask => (.chipCmd, Config.chipOpWriteRegisterAndMask :: addr :: le32 mask)
  | .readRegister addr => (.chipCmd, [Config.chipOpReadRegister, addr])
  | .readEeprom addr len => (.chipCmd, [Config.chipOpReadEeprom, addr, len])
  | .sendData frame => (.chipCmd, Config.chipOpSendData :: 0x00 :: frame)
  | .readData => (.chipCmd, [Config.chipOpReadData, 0x00])

/-! ## Words of the opcode table -/

/-- Pad with zero bytes up to `n` bytes. -/
def padTo (n : Nat) (bs : Bytes) : Bytes := bs ++ zeros (n - bs.length)

/-- The operand bytes of `w` above its selecting byte, `nbits` bits in all. -/
def wordOperands : Nat → Nat → Bytes
  | 0, _ => []
  | n + 1, w => BitVec.ofNat 8 w :: wordOperands n (w / 256)

/-- The shortest operand bytes a HOST_REQ op's record has. -/
def hostMinOperands (op : Byte) : Nat :=
  match op.toNat with
  | 0x01 => 1
  | 0x02 | 0x06 | 0x14 => 2
  | 0x03 => 16
  | 0x04 => 14
  | 0x10 | 0x11 | 0x12 => 5
  | 0x13 => 1
  | _ => 0

/-- The shortest parameters of a layout of 30 R94. -/
def shapeMinParams : ArgShape → Nat
  | .none | .raw => 0
  | .block | .value => 1
  | .blockData | .range => 2
  | .rangeData => 3

/-- The shortest operand bytes a chip command frame has. -/
def chipMinOperands (opcode : Byte) : Nat :=
  if opcode = Config.chipOpReadRegister ∨ opcode = Config.chipOpReadData then 1
  else if opcode = Config.chipOpReadEeprom ∨ opcode = Config.chipOpSendData then 2
  else 5

/-- An opcode-table word laid out as a record or frame: the low byte is the row's selecting byte (30 R112), the
bytes above it its operands, all further operand bytes zero up to the row's shortest form. The three opcode spaces
share byte values; a HOST_REQ op comes first, then an ISO code, then a chip opcode (log 4). -/
def tableRecord (nbits w : Nat) : Format × Bytes :=
  let sel : Byte := BitVec.ofNat 8 w
  let operands := wordOperands (nbits / 8 - 1) (w / 256)
  if isHostOp sel then (.hostReq, sel :: padTo (hostMinOperands sel) operands)
  else match isoShape sel with
    | some shape => (.isoReq, 0 :: sel :: padTo (shapeMinParams shape) operands)
    | none => (.chipCmd, sel :: padTo (chipMinOperands sel) operands)

def decodeTableWord (nbits w : Nat) : Option Instr :=
  if nbits = 0 then none
  else match decode (tableRecord nbits w).1 (tableRecord nbits w).2 with
    | .ok i => some i
    | .error _ => none

end Sys2Proof
end

