-- ==== Sys2Proof/Machine/State.lean ====
section
/-!
DEFINITION. The state of the unit (10_state.md R22 to R33), its ports (R21), and the environment a claim about it needs:
the CHIP's answers, the exchange log, what is known of the tag's memory and of the chip's registers, and HOST's session.
State is plain data. INVENTORY.md lists every field with its rule and its reset value.
-/

namespace Sys2Proof.Machine

open Sys2Proof

/-- The sequencer states of 10_state.md R22. -/
inductive St where
  | ready
  | validate
  | codec
  | xClr
  | xMode
  | xChk
  | xSend
  | xASample
  | xAWait
  | xBSample
  | xBWait
  | xRxstat
  | xRxdata
  | xRestore
  | decode
  | mRead
  | mWchunk
  | done
  | fault
  deriving DecidableEq, Repr

/-- The fault latch (10_state.md R31). -/
inductive FaultLatch where
  | none
  | transport
  | protocolState
  deriving DecidableEq, Repr

/-- The result classes of 60_exceptions.md R282. -/
inductive Cls where
  | ok
  | noAnswer
  | tagError
  | writeBlockError
  | protocolStateError
  | transportError
  | shortResponse
  | multiWriteMismatch
  | geometryError
  | rangeError
  | badRequest
  deriving DecidableEq, Repr

/-- The GET_SYSTEM_INFORMATION record `(dsfid, afi, numBlocks, blockSize)` (10_state.md R33). -/
structure TagInfo where
  dsfid : Byte
  afi : Byte
  numBlocks : Nat
  blockSize : Nat
  deriving DecidableEq, Repr

/-- What `rq` holds: an instruction, or a record that is none (10_state.md R25, 30_encoding.md R101; log 18). -/
inductive Request where
  | op (i : Instr)
  | illegal (record : Bytes)
  deriving DecidableEq, Repr

/-- One answer of the CHIP to one exchange (00_scope.md R13). -/
inductive ChipAnswer where
  /-- the exchange fails: the event TransportError -/
  | fails
  /-- the exchange returns these bytes, cut or filled to the length law (log 7) -/
  | returns (rx : Bytes)
  deriving DecidableEq, Repr

/-- One entry of the exchange log (60_exceptions.md R298): the bytes sent, and the bytes returned unless it failed. -/
structure Xchg where
  tx : Bytes
  rx : Option Bytes
  deriving DecidableEq, Repr

/-- One chip register as the unit's completed commands leave it: which bits they fix, and to what (log 12). -/
structure ChipReg where
  known : Word
  value : Word
  deriving DecidableEq, Repr

/-- HOST's session state (10_state.md R46). -/
inductive Session where
  | noTag
  | tagPresent (uid : Uid) (bs nb : Nat)
  deriving DecidableEq, Repr

/-- What a tick emits (60_exceptions.md R302). -/
inductive Event where
  | tagLost (uid : Uid)
  | tagFound (tag : TagRec)
  deriving DecidableEq, Repr

/-- A move of HOST at the request port: a request record in one of the request formats, or a tick of the session. -/
inductive HostMove where
  | record (format : Format) (bytes : Bytes)
  | tick
  deriving DecidableEq, Repr

/-- Tag memory: the known bytes, addresses strictly rising; an unlisted address is unknown, and each block of each tag
has 32 addresses (log 11). -/
abbrev Memory := List Host.Cell

structure State where
  /-- R22 -/
  st : St
  /-- R31 -/
  fault : FaultLatch
  /-- R24 -/
  now : Nat
  /-- R25 -/
  rq : Request
  /-- R26 -/
  txf : Bytes
  /-- R27 -/
  smp : Nat
  /-- R28 -/
  irq : Word
  /-- R28 -/
  ts : BitVec 3
  /-- R28 -/
  rxn : BitVec 9
  /-- R29 -/
  rxb : Bytes
  /-- R30 -/
  tflags : Byte
  /-- R30 -/
  tpayload : Bytes
  /-- R32 -/
  m_tag : TagRec
  /-- R32 -/
  m_skip : BitVec 5
  /-- R32 -/
  m_start : Byte
  /-- R32 -/
  m_nblk : Nat
  /-- R32 -/
  m_idx : Nat
  /-- R32 -/
  m_wbuf : Bytes
  /-- R33, 60 R282 -/
  r_cls : Cls
  /-- R33 -/
  r_code : Option Byte
  /-- R33 -/
  r_blk : Option Byte
  /-- R33 -/
  r_flags : Option Byte
  /-- R33 -/
  r_data : Bytes
  /-- R33; "no value" is the spec's own state of this register -/
  r_val : Option Word
  /-- R33 -/
  r_uid : Option Uid
  /-- R33; "no value" is the spec's own state of this register -/
  r_info : Option TagInfo
  /-- R21, R33 -/
  rsp_valid : Bool
  /-- R21: HOST's coming moves at the request port -/
  host : List HostMove
  /-- R21, 70 R320: how many sampling points pass before each coming assertion of `rst` (log 9) -/
  rst : List Nat
  /-- R46 -/
  session : Session
  /-- 60 R302: the events emitted, oldest first -/
  events : List Event
  /-- 00 R15, 20 R62 -/
  tag_mem : Memory
  /-- R37 to R40: the chip's registers as commanded, by address (log 12) -/
  chip_img : List (Nat × ChipReg)
  /-- the model's own: the CHIP's coming answers (log 6) -/
  chip_in : List ChipAnswer
  /-- the model's own: exchanges drawn so far (log 6) -/
  nx : Nat
  /-- the model's own: the exchange log of 60 R298, oldest first (log 13) -/
  log : List Xchg
  /-- the model's own: what the last chip-port operation returned to its caller (log 3) -/
  ret : Bytes
  /-- the model's own: a chip command frame waiting to be run alone (log 3) -/
  chip_port : Option Bytes
  deriving DecidableEq, Repr

/-- The machine right after reset (10_state.md R48, 70 R320): READY, no fault, nothing in flight. Where R48 says
"no value" the value here is the model's (log 5). -/
def State.reset : State where
  st := .ready
  fault := .none
  now := 0
  rq := .illegal []
  txf := []
  smp := 0
  irq := 0
  ts := 0
  rxn := 0
  rxb := []
  tflags := 0
  tpayload := []
  m_tag := ⟨⟨0, 0, 0, 0, 0, 0, 0, 0⟩, 0, 0⟩
  m_skip := 0
  m_start := 0
  m_nblk := 0
  m_idx := 0
  m_wbuf := []
  r_cls := .ok
  r_code := none
  r_blk := none
  r_flags := none
  r_data := []
  r_val := none
  r_uid := none
  r_info := none
  rsp_valid := false
  host := []
  rst := []
  session := .noTag
  events := []
  tag_mem := []
  chip_img := []
  chip_in := []
  nx := 0
  log := []
  ret := []
  chip_port := none

/-- Why the machine stops. -/
inductive Fault where
  /-- Raised by `step` alone, in the state FAULT with no reset coming: the unit takes no step until reset
  (60_exceptions.md R290, 93 A14). Safe: the unit does nothing more there. -/
  | latched (f : FaultLatch)
  deriving DecidableEq, Repr

/-- What the model gives no meaning to. -/
inductive Refusal where
  /-- Raised by `exec` for an instruction without a meaning; no arm raises it now. Safe. -/
  | notModelled (mnemonic : String)
  /-- Raised by `step` when T_A or T_B is no multiple of P (00_scope.md R6, 93 A15), or a width of R5 is not the
  model's (log 17). Safe. -/
  | badParameters
  /-- Raised by `step` when the bytes waiting at the chip port are no command the unit emits (30_encoding.md R103).
  Safe: no run of requests puts bytes there. -/
  | chipFrame (e : DecodeError)
  deriving DecidableEq, Repr

end Sys2Proof.Machine
end

