-- ==== Sys2Proof/Machine/Ops.lean ====
section
/-!
DEFINITION. The named operations over the state: the sorted memory, readiness, reset, publication (the unit's way of
taking an exception, 60_exceptions.md R284) with the two faults, the sampling of `rst`, and `Exchange`, the unit's
only access to the chip (00_scope.md R13).
-/

namespace Sys2Proof.Machine

open Sys2Proof

/-! ## Sorted lists of numbered entries -/

/-- The entry at `a`, if it is listed. -/
def entryAt {α : Type} (a : Nat) : List (Nat × α) → Option α
  | [] => none
  | (k, v) :: l => if k = a then some v else entryAt a l

/-- Set the entry at `a`, keeping the numbers strictly rising. -/
def entrySet {α : Type} (a : Nat) (v : α) : List (Nat × α) → List (Nat × α)
  | [] => [(a, v)]
  | (k, w) :: l =>
    if a < k then (a, v) :: (k, w) :: l
    else if a = k then (a, v) :: l
    else (k, w) :: entrySet a v l

/-- Drop the `n` entries from `a` on. -/
def entryDrop {α : Type} (a n : Nat) (l : List (Nat × α)) : List (Nat × α) :=
  l.filter fun e => decide (e.1 < a) || decide (a + n ≤ e.1)

/-- Strictly rising numbers. -/
abbrev rising {α : Type} (l : List (Nat × α)) : Prop := l.Pairwise fun x y => x.1 < y.1

/-! ## Tag memory (20_memory.md R62; log 11) -/

/-- The canonical form: addresses strictly rising. An unlisted address has no known value, so no entry can equal
what it reads as. -/
abbrev Memory.wf (m : Memory) : Prop := rising m

/-- The byte known to stand at an address; `none` where it is unknown. -/
def memRead (a : Nat) (m : Memory) : Option Byte := entryAt a m

/-- Write a byte string from an address on. -/
def memWrite (a : Nat) : Bytes → Memory → Memory
  | [], m => m
  | b :: bs, m => memWrite (a + 1) bs (entrySet a b m)

/-- A UID as a number. -/
def Uid.num (u : Uid) : Nat := u.bytes.foldl (fun n b => n * 256 + b.toNat) 0

/-- Where block `b` (below 256) of the tag with UID `u` is listed: 32 addresses a block, 8192 a tag (log 11). -/
def slotAddr (u : Uid) (b : Nat) : Nat := Uid.num u * 8192 + b * 32

/-- The address of byte 0 of block `b` of a tag; byte k of the block stands k addresses on. -/
def blockAddr (tag : TagRec) (b : Nat) : Nat := slotAddr tag.uid b

/-- The address of byte `a` of a tag's memory: byte `a mod bs` of block `a div bs` (20_memory.md R62). -/
def tagAddr (tag : TagRec) (a : Nat) : Nat := blockAddr tag (a / tag.bs) + a % tag.bs

/-- `MemRead(a, n)` of a tag as far as it is known (00_scope.md R15). -/
def tagBytesAt (tag : TagRec) (a : Nat) : Nat → Memory → List (Option Byte)
  | 0, _ => []
  | n + 1, m => memRead (tagAddr tag a) m :: tagBytesAt tag (a + 1) n m

/-- Whether an address is listed for one of `n` blocks from `first` on, of the tag with this UID or, with none, of any
tag. -/
def inBlocks (uid : Option Uid) (first n a : Nat) : Bool :=
  uid.all (fun u => decide (a / 8192 = Uid.num u)) && decide (first ≤ a % 8192 / 32)
    && decide (a % 8192 / 32 < first + n)

/-- These blocks become unknown. -/
def memForgetBlocks (uid : Option Uid) (first n : Nat) (m : Memory) : Memory :=
  m.filter fun e => !inBlocks uid first n e.1

/-- The command codes whose transaction changes no byte of a tag's user memory: the reads (20_memory.md R73) and
those that write and lock nothing (log 11). -/
def codeKeepsMemory (code : Byte) : Bool :=
  decide (code ∈ [0x01, 0x02, 0x20, 0x23, 0x25, 0x26, 0x2B, (0x2C : Byte)])

/-- The blocks a frame may change, as first block and number: the one named by WRITE_SINGLE_BLOCK and LOCK_BLOCK, the
`count` named by WRITE_MULTIPLE_BLOCK (30_encoding.md R94), and all 256 for the writes and locks of AFI and DSFID, which
name none but may change the memory (70_reset_and_hazards.md R334; log 11); none for every other code or where the frame
is cut short. -/
def frameBlocks (code : Byte) (params : Bytes) : Option (Nat × Nat) :=
  match code.toNat, params with
  | 0x21, b :: _ => some (b.toNat, 1)
  | 0x22, b :: _ => some (b.toNat, 1)
  | 0x24, b :: c :: _ => some (b.toNat, c.toNat + 1)
  | 0x27, _ | 0x28, _ | 0x29, _ | 0x2A, _ => some (0, 256)
  | _, _ => none

/-- What stays known of the tags' memories from the moment a frame may reach them until its outcome is known: a
transaction that may change blocks leaves those blocks unknown (20_memory.md R72, 70 R334, 93 A5), of the addressed tag
or of every tag; a frame whose effect the spec does not give leaves nothing known (log 11). The frame is read by the layout of
30_encoding.md R91 and R93. -/
def knownAfterFrame (f : Bytes) (m : Memory) : Memory :=
  match f with
  | fl :: code :: rest =>
    if codeKeepsMemory code then m
    else match takeIf (fl.getLsbD 5) takeUid rest with
      | none => []
      | some (uid, params) =>
        match frameBlocks code params with
        | none => []
        | some (first, n) => memForgetBlocks uid first n m
  | _ => []

/-! ## The chip's registers as commanded (10_state.md R37; log 12) -/

/-- What is known of a chip register; nothing where it is not listed. -/
def chipReg (a : Byte) (img : List (Nat × ChipReg)) : ChipReg := (entryAt a.toNat img).getD ⟨0, 0⟩

/-- Record what is known of a register; a register of which nothing is known is not listed. -/
def chipRegSet (a : Byte) (r : ChipReg) (img : List (Nat × ChipReg)) : List (Nat × ChipReg) :=
  if r.known = 0 then entryDrop a.toNat 1 img else entrySet a.toNat r img

/-- `reg[a] <- v` (40 R117). -/
def chipRegWrite (a : Byte) (v : Word) (img : List (Nat × ChipReg)) : List (Nat × ChipReg) :=
  chipRegSet a ⟨BitVec.allOnes 32, v⟩ img

/-- `reg[a] <- reg[a] | m` (40 R118): the bits of `m` become known ones. -/
def chipRegOr (a : Byte) (m : Word) (img : List (Nat × ChipReg)) : List (Nat × ChipReg) :=
  let r := chipReg a img
  chipRegSet a ⟨r.known ||| m, r.value ||| m⟩ img

/-- `reg[a] <- reg[a] & m` (40 R119): the bits not in `m` become known zeros. -/
def chipRegAnd (a : Byte) (m : Word) (img : List (Nat × ChipReg)) : List (Nat × ChipReg) :=
  let r := chipReg a img
  chipRegSet a ⟨r.known ||| ~~~m, r.value &&& m⟩ img

/-! ## Readiness (10_state.md R23) -/

/-- `busy` is `st ∉ {READY, DONE}`. -/
def State.busy (s : State) : Bool := decide (s.st ≠ .ready) && decide (s.st ≠ .done)

/-- `req_ready = 1` exactly when `st ∈ {READY, DONE}` and no fault is latched. -/
def State.req_ready (s : State) : Bool := !s.busy && decide (s.fault = .none)

/-- The sequencer has a step to take: it is in neither READY, DONE nor FAULT. -/
def State.running (s : State) : Bool := s.busy && decide (s.st ≠ .fault)

/-- `req_valid`: HOST presents a request record (10_state.md R21). While HOST's next move is a tick the model reads it
0: R21 does not tie the tick to the request line, and the tick's own requests are accepted within the step that takes
it (log 16). -/
def State.req_valid (s : State) : Bool :=
  match s.host with
  | .record _ _ :: _ => true
  | _ => false

/-! ## Reset (70_reset_and_hazards.md R320, R322, R323) -/

/-- Every register of the unit at its reset value; HOST's queue and session, the tag, the chip and the log stay. The
chip's registers become unknown when a request is abandoned (R331, 93 A4). -/
def takeReset (s : State) : State :=
  { State.reset with
    host := s.host
    rst := s.rst
    session := s.session
    events := s.events
    tag_mem := s.tag_mem
    chip_img := if s.running then [] else s.chip_img
    chip_in := s.chip_in
    nx := s.nx
    log := s.log }

/-- How an operation of the unit ended: `done` and the request goes on, or `ended` because a fault ended the request
or a reset was taken. -/
inductive Port where
  | done (s : State)
  | ended (s : State)
  deriving DecidableEq, Repr

/-- Go on only after `done`. -/
def Port.bind : Port → (State → Port) → Port
  | .done s, f => f s
  | .ended s, _ => .ended s

/-- The last step of a rule. -/
def Port.andThen : Port → (State → State) → State
  | .done s, f => f s
  | .ended s, _ => s

/-- The state an operation left, however it ended. -/
def Port.state : Port → State
  | .done s => s
  | .ended s => s

/-- A sampling point of `rst`: every step of the unit and every exchange begins with one (log 9). -/
def sampleRst (s : State) : Port :=
  match s.rst with
  | [] => .done s
  | 0 :: rest => .ended (takeReset { s with rst := rest })
  | (n + 1) :: rest => .done { s with rst := n :: rest }

/-! ## Publication: the unit's trap entry (60_exceptions.md R284) -/

/-- The values a request gives the response registers; each defaults to R33's "none". -/
structure Rsp where
  cls : Cls
  code : Option Byte := none
  blk : Option Byte := none
  flags : Option Byte := none
  data : Bytes := []
  val : Option Word := none
  uid : Option Uid := none
  info : Option TagInfo := none
  deriving DecidableEq, Repr

/-- R284 (2) to (4): write every response register, set `rsp_valid`, enter FAULT or DONE. -/
def publish (r : Rsp) (s : State) : State :=
  { s with
    r_cls := r.cls
    r_code := r.code
    r_blk := r.blk
    r_flags := r.flags
    r_data := r.data
    r_val := r.val
    r_uid := r.uid
    r_info := r.info
    rsp_valid := true
    st := if s.fault = .none then .done else .fault }

/-- TransportError (R285, R287): latch TRANSPORT, publish nothing but the class; the chip's state is unknown. -/
def transportError (s : State) : State :=
  publish { cls := .transportError } { s with fault := .transport, chip_img := [] }

/-- The end of a ProtocolStateError, after its cleanup (R286, R287): `r_data = [ts]`. -/
def protocolStateError (s : State) : State :=
  publish { cls := .protocolStateError, data := [zext 8 s.ts] } s

/-- BAD_REQUEST: nothing recorded, no exchange (30_encoding.md R88). -/
def badRequest (s : State) : State := publish { cls := .badRequest } s

/-! ## Exchange (00_scope.md R13) -/

/-- The CHIP's next answer: HOST's tape where it says one, a free value where it does not (log 6). -/
def nextAnswer (s : State) : ChipAnswer :=
  match s.chip_in with
  | a :: _ => a
  | [] => if Config.chipFails s.nx then .fails else .returns []

/-- The length law: exactly `n` bytes, those the answer lacks drawn free from byte `i` of exchange `k` on (log 7). -/
def fitAnswer (k : Nat) : Nat → Nat → Bytes → Bytes
  | _, 0, _ => []
  | i, n + 1, b :: bs => b :: fitAnswer k (i + 1) n bs
  | i, n + 1, [] => Config.chipByte k i :: fitAnswer k (i + 1) n []

/-- What the next exchange of `n` bytes returns; `none` where it fails. -/
def drawn (n : Nat) (s : State) : Option Bytes :=
  match nextAnswer s with
  | .fails => none
  | .returns rx => some (fitAnswer s.nx 0 n rx)

/-- Take one answer and log the exchange. -/
def logXchg (tx : Bytes) (rx : Option Bytes) (s : State) : State :=
  { s with chip_in := s.chip_in.tail, nx := s.nx + 1, log := s.log ++ [⟨tx, rx⟩] }

/-- `Exchange(tx) -> rx`: one atomic transaction. The returned bytes stand in `ret`; a failure ends the request. -/
def exchange (tx : Bytes) (s : State) : Port :=
  (sampleRst s).bind fun s =>
    match drawn tx.length s with
    | none => .ended (transportError (logXchg tx none s))
    | some rx => .done { logXchg tx (some rx) s with ret := rx }

/-- `Wait(P)` (00_scope.md R14, 10_state.md R24). -/
def wait (s : State) : State := { s with now := s.now + 1 }

end Sys2Proof.Machine
end

