-- ==== Sys2Proof/Machine/Operands.lean ====
section
/-!
DEFINITION. The operand forms: the validation of a request's operands (30_encoding.md R88 (2) to (4)), the ISO request
a request stands for (R111) and the mapper's address arithmetic (44_tag_memory.md R251 to R253).
-/

namespace Sys2Proof.Machine

open Sys2Proof

/-! ## Operand ranges (30_encoding.md R87, R88) -/

/-- The data of a MEM_WRITE is no longer than its length field can say (R87). -/
def dataLengthOk (data : Bytes) : Bool := decide (data.length < 2 ^ Config.lengthBits)

/-- R88 (3). -/
def frameOk (frame : Bytes) : Bool :=
  decide (1 ≤ frame.length) && decide (frame.length ≤ Config.maxTxFrame)

/-- `count`: 1..256 (R94, R95). -/
def countOk (count : Nat) : Bool := decide (1 ≤ count) && decide (count ≤ 256)

/-- The operands of a layout are present and in range (R94; 42 R186, R188, R189, R197). -/
def argsOk (shape : ArgShape) (args : IsoArgs) : Bool :=
  match shape, args with
  | .none, .none => true
  | .block, .block _ => true
  | .blockData, .blockData _ data => decide (1 ≤ data.length) && decide (data.length ≤ 32)
  | .range, .range _ count => countOk count
  | .rangeData, .rangeData _ count data => countOk count && decide (1 ≤ data.length)
  | .value, .value _ => true
  | .raw, .raw _ => true
  | _, _ => false

/-! ## ISO requests -/

/-- The operands of ISO_CMD (42 R180). -/
structure IsoReq where
  cmd : Byte
  flags : Byte
  uid : Option Uid
  args : IsoArgs
  deriving DecidableEq, Repr

/-- `Encode(cmd, flags, uid, args)` (42 R180 to R203): pure. -/
def isoEncode (r : IsoReq) : Bytes :=
  if r.cmd = 0x01 then inventoryFrame else isoFrame r.cmd r.flags r.uid r.args

/-- R88 (4) for ISO_CMD: a code of R94's table, its arguments in range, no UID for INVENTORY (42 R183), and a frame
that fits. -/
def isoReqOk (r : IsoReq) : Bool :=
  match isoShape r.cmd with
  | none => false
  | some shape =>
    argsOk shape r.args && (decide (r.cmd ≠ 0x01) || r.uid.isNone)
      && decide ((isoEncode r).length ≤ Config.maxTxFrame)

/-- The frame of ISO_RAW and RAW, whatever the code (42 R204). -/
def rawFrame (code flags : Byte) (uid : Option Uid) (raw : Bytes) : Bytes :=
  isoFrame code flags uid (.raw raw)

/-- The ISO_CMD request a request stands for: ISO_CMD itself, or a command's mnemonic, which is ISO_CMD with `cmd` set
to its code (30 R111). -/
def isoReqOf : Instr → Option IsoReq
  | .isoCmd cmd flags uid args => some ⟨cmd, flags, uid, args⟩
  | .inventory => some ⟨0x01, Config.defaultReqFlags, none, .none⟩
  | .stayQuiet flags uid => some ⟨0x02, flags, uid, .none⟩
  | .readSingleBlock flags uid block => some ⟨0x20, flags, uid, .block block⟩
  | .writeSingleBlock flags uid block data => some ⟨0x21, flags, uid, .blockData block data⟩
  | .lockBlock flags uid block => some ⟨0x22, flags, uid, .block block⟩
  | .readMultipleBlock flags uid first count => some ⟨0x23, flags, uid, .range first count⟩
  | .writeMultipleBlock flags uid first count data => some ⟨0x24, flags, uid, .rangeData first count data⟩
  | .select flags uid => some ⟨0x25, flags, uid, .none⟩
  | .resetToReady flags uid => some ⟨0x26, flags, uid, .none⟩
  | .writeAfi flags uid afi => some ⟨0x27, flags, uid, .value afi⟩
  | .lockAfi flags uid => some ⟨0x28, flags, uid, .none⟩
  | .writeDsfid flags uid dsfid => some ⟨0x29, flags, uid, .value dsfid⟩
  | .lockDsfid flags uid => some ⟨0x2A, flags, uid, .none⟩
  | .getSystemInformation flags uid => some ⟨0x2B, flags, uid, .none⟩
  | .getMultipleBlockSecurityStatus flags uid first count => some ⟨0x2C, flags, uid, .range first count⟩
  | .vendorC0 flags uid raw => some ⟨0xC0, flags, uid, .raw raw⟩
  | .vendorC1 flags uid raw => some ⟨0xC1, flags, uid, .raw raw⟩
  | .vendorC2 flags uid raw => some ⟨0xC2, flags, uid, .raw raw⟩
  | .vendorC3 flags uid raw => some ⟨0xC3, flags, uid, .raw raw⟩
  | .vendorC4 flags uid raw => some ⟨0xC4, flags, uid, .raw raw⟩
  | _ => none

/-! ## The mapper's arithmetic (44_tag_memory.md) -/

/-- A well-formed Tag record (10_state.md R45, 44 R251). -/
def geometryOk (tag : TagRec) : Bool :=
  decide (Config.bsMin ≤ tag.bs) && decide (tag.bs ≤ Config.bsMax)
    && (decide (Config.nbMin ≤ tag.nb) && decide (tag.nb ≤ Config.nbMax))

/-- The byte range lies in the tag's memory (44 R253). -/
def rangeOk (tag : TagRec) (offset len : Nat) : Bool := decide (offset + len ≤ tag.bs * tag.nb)

/-- The values of 44 R252. -/
structure MapPlan where
  skip : Nat
  startBlock : Nat
  totalBytes : Nat
  nblk : Nat
  deriving DecidableEq, Repr

/-- 44 R252, with `startBlock` a division (90_conflicts.md C2). -/
def mapPlan (bs offset len : Nat) : MapPlan :=
  let skip := offset % bs
  let totalBytes := roundUp (len + skip) bs
  { skip := skip, startBlock := (offset - skip) / bs, totalBytes := totalBytes, nblk := totalBytes / bs }

/-- The frame of a MEM_READ: READ_MULTIPLE_BLOCK of the covered blocks, addressed, default flags (44 R250, R256). -/
def memReadFrame (tag : TagRec) (p : MapPlan) : Bytes :=
  isoEncode ⟨0x23, Config.defaultReqFlags, some tag.uid, .range (BitVec.ofNat 8 p.startBlock) p.nblk⟩

/-- `m_wbuf` of a MEM_WRITE: the data padded with zeros to whole blocks (44 R259). -/
def paddedData (p : MapPlan) (data : Bytes) : Bytes :=
  zeros p.skip ++ data ++ zeros (p.totalBytes - p.skip - data.length)

/-- Chunk `i` of a padded write (44 R259). -/
def chunkOf (bs i : Nat) (wbuf : Bytes) : Bytes := slice wbuf (i * bs) ((i + 1) * bs)

/-- The frame of one chunk: WRITE_SINGLE_BLOCK, addressed, default flags (44 R250, R259). -/
def chunkFrame (tag : TagRec) (b : Nat) (chunk : Bytes) : Bytes :=
  isoEncode ⟨0x21, Config.defaultReqFlags, some tag.uid, .blockData (BitVec.ofNat 8 b) chunk⟩

end Sys2Proof.Machine
end

