-- ==== Sys2Proof/Machine/Flags.lean ====
section
/-!
DEFINITION. What the replies' flag bytes and codes mean. The unit has no condition codes (10_state.md R36); its two flag
bytes are requestFlags (assembled in Decode.lean, 30 R93) and responseFlags, classified here (43_iso15693_decoder.md),
with the result classes' codes (60 R282), the error texts (43 R224 to R226) and the per-command parses. Every function
is pure (43 R240).
-/

namespace Sys2Proof.Machine

open Sys2Proof

/-- The 4-bit code of a result class (60 R282); 11 to 15 are never written. -/
def clsCode : Cls → BitVec 4
  | .ok => 0
  | .noAnswer => 1
  | .tagError => 2
  | .writeBlockError => 3
  | .protocolStateError => 4
  | .transportError => 5
  | .shortResponse => 6
  | .multiWriteMismatch => 7
  | .geometryError => 8
  | .rangeError => 9
  | .badRequest => 10

/-- The classes that set the fault latch (60 R280). -/
def clsIsFault : Cls → Bool
  | .protocolStateError | .transportError => true
  | _ => false

/-- The name of a class (60 R282). -/
def clsName : Cls → String
  | .ok => "OK"
  | .noAnswer => "NO_ANSWER"
  | .tagError => "TAG_ERROR"
  | .writeBlockError => "WRITE_BLOCK_ERROR"
  | .protocolStateError => "PROTOCOL_STATE_ERROR"
  | .transportError => "TRANSPORT_ERROR"
  | .shortResponse => "SHORT_RESPONSE"
  | .multiWriteMismatch => "MULTI_WRITE_MISMATCH"
  | .geometryError => "GEOMETRY_ERROR"
  | .rangeError => "RANGE_ERROR"
  | .badRequest => "BAD_REQUEST"

/-! ## Messages (43 R224 to R226) -/

/-- An upper-case hexadecimal digit. -/
def hexDigit (n : Nat) : String :=
  match n with
  | 0 => "0" | 1 => "1" | 2 => "2" | 3 => "3" | 4 => "4" | 5 => "5" | 6 => "6" | 7 => "7"
  | 8 => "8" | 9 => "9" | 10 => "A" | 11 => "B" | 12 => "C" | 13 => "D" | 14 => "E" | _ => "F"

/-- R225: an unmapped code as raw hex. -/
def rawHex (code : Byte) : String := "0x" ++ hexDigit (code.toNat / 16) ++ hexDigit (code.toNat % 16)

/-- R224's table, and R225 for every other code. -/
def errorText (code : Byte) : String :=
  match code.toNat with
  | 0x01 => "The command is not supported, i.e. the request code is not recognised."
  | 0x02 => "The command is not recognised, for example: a format error occurred."
  | 0x03 => "The command option is not supported."
  | 0x0F => "Error with no information given or a specific error code is not supported."
  | 0x10 => "The specified block is not available (doesn't exist)."
  | 0x11 => "The specified block is already locked and thus cannot be locked again."
  | 0x12 => "The specified block is locked and its content cannot be changed."
  | 0x13 => "The specified block was not successfully programmed."
  | 0x14 => "The specified block was not successfully locked."
  | _ => rawHex code

/-- The text for an optional code. -/
def codeText : Option Byte → String
  | some c => errorText c
  | none => "no error code"

/-- A block index in decimal, 0..255. -/
def decimal (n : Nat) : String :=
  (if 100 ≤ n then hexDigit (n / 100) else "") ++ (if 10 ≤ n then hexDigit (n / 10 % 10) else "")
    ++ hexDigit (n % 10)

/-- `Msg`, the message of a result (R226). -/
def msg (cls : Cls) (code blk : Option Byte) : String :=
  match cls with
  | .ok => ""
  | .tagError => codeText code
  | .writeBlockError => "block " ++ decimal (blk.getD 0).toNat ++ ": " ++ codeText code
  | c => clsName c

/-! ## Arbitration and parses -/

/-- The generic arbitration (43 R220): the three tests in this order. -/
def arbitrate (fl : Byte) (pl : Bytes) : Rsp :=
  if fl = Config.noAnswerFlags then { cls := .noAnswer, flags := some fl, data := pl }
  else if fl ≠ 0 then { cls := .tagError, code := pl.head?, flags := some fl, data := pl }
  else { cls := .ok, flags := some fl, data := pl }

/-- `payload[1..9)` as a UID (30 R98). -/
def payloadUid (pl : Bytes) : Option Uid := (takeUid (pl.drop 1)).map (·.1)

/-- INVENTORY (43 R228, R229). -/
def parseInventory (fl : Byte) (pl : Bytes) : Rsp :=
  let r := arbitrate fl pl
  if r.cls = .ok then
    if pl.length < Config.invMinPayload then { r with cls := .noAnswer, code := none, uid := none }
    else { r with uid := payloadUid pl }
  else r

/-- The fields of a GET_SYSTEM_INFORMATION payload (43 R230, R231; 30 R99); `none` where a field it announces is
missing. -/
def systemInfo (pl : Bytes) : Option TagInfo :=
  match pl with
  | [] => none
  | f :: _ =>
    if pl.length < 9 then none
    else
      let i1 := 9
      let i2 := if f.getLsbD 0 then i1 + 1 else i1
      let i3 := if f.getLsbD 1 then i2 + 1 else i2
      let i4 := if f.getLsbD 2 then i3 + 2 else i3
      if pl.length < i4 then none
      else some
        { dsfid := if f.getLsbD 0 then pl.getD i1 0 else 0
          afi := if f.getLsbD 1 then pl.getD i2 0 else 0
          numBlocks := if f.getLsbD 2 then (pl.getD i3 0).toNat + 1 else 0
          blockSize := if f.getLsbD 2 then (pl.getD (i3 + 1) 0 &&& 0x1F).toNat + 1 else 0 }

/-- GET_SYSTEM_INFORMATION (43 R230 to R232). -/
def parseSystemInfo (fl : Byte) (pl : Bytes) : Rsp :=
  let r := arbitrate fl pl
  if r.cls = .ok then
    match systemInfo pl with
    | some info => { r with info := some info }
    | none => { r with cls := .shortResponse }
  else r

/-- WRITE_MULTIPLE_BLOCK (43 R233): success is a payload of `count` bytes. -/
def parseMultiWrite (count : Nat) (fl : Byte) (pl : Bytes) : Rsp :=
  let r := arbitrate fl pl
  if r.cls = .ok ∧ pl.length ≠ count then { r with cls := .multiWriteMismatch } else r

/-- `Decode(cmd, fl, pl)`: the parse of the command (43 R227); every other command keeps the arbitration's answer
(R234 to R238). -/
def isoDecode (r : IsoReq) (fl : Byte) (pl : Bytes) : Rsp :=
  match r.cmd.toNat, r.args with
  | 0x01, _ => parseInventory fl pl
  | 0x2B, _ => parseSystemInfo fl pl
  | 0x24, .rangeData _ count _ => parseMultiWrite count fl pl
  | _, _ => arbitrate fl pl

/-- The reply of any request that makes one transceive of its own frame: ISO_CMD and its mnemonics by their command,
TRANSCEIVE, ISO_RAW and RAW by the arbitration alone (43 R227, R238). -/
def decodeReply (i : Instr) (fl : Byte) (pl : Bytes) : Rsp :=
  match isoReqOf i with
  | some r => isoDecode r fl pl
  | none => arbitrate fl pl

/-- The reply to a MEM_READ (44 R256, R257). -/
def readReply (skip length : Nat) (fl : Byte) (pl : Bytes) : Rsp :=
  let r := arbitrate fl pl
  if r.cls = .ok then
    if pl.length < skip + length then { r with cls := .shortResponse }
    else { r with data := slice pl skip (skip + length) }
  else r

/-- The outcome of one chunk of a MEM_WRITE (44 R260), the rows of its table in order; `none` is success. -/
def chunkFailure (b : Byte) (fl : Byte) (pl : Bytes) : Option Rsp :=
  if fl = Config.noAnswerFlags then
    some { cls := .noAnswer, blk := some b, flags := some fl, data := pl }
  else match pl with
    | c :: _ => some { cls := .writeBlockError, blk := some b, code := some c, flags := some fl, data := pl }
    | [] =>
      if fl ≠ 0 then some { cls := .writeBlockError, blk := some b, flags := some fl, data := pl }
      else none

end Sys2Proof.Machine
end

