-- ==== Sys2Proof/Machine/ChipPort.lean ====
section
/-!
DEFINITION. The chip port: the seven operations of 40_chip_port.md R117 to R123, the composite ones of R125 and R126,
and the meanings of the seven CHIP_CMD rows, which run one operation alone (log 3). A read leaves the bytes it returns
in `ret`.
-/

namespace Sys2Proof.Machine

open Sys2Proof

/-- A command frame with no response (30 R89), then its effect on the chip's registers as commanded. -/
def command (i : Instr) (effect : List (Nat × ChipReg) → List (Nat × ChipReg)) (s : State) : Port :=
  (exchange (encode i).2 s).bind fun s => .done { s with chip_img := effect s.chip_img }

/-- A command frame, then `n` fill bytes whose answer is the response (30 R89). No fill exchange for `n = 0`, which no
request reaches (40 R121, R123; log 22). -/
def query (i : Instr) (n : Nat) (s : State) : Port :=
  (exchange (encode i).2 s).bind fun s =>
    if n = 0 then .done { s with ret := [] } else exchange (rep Config.fillByte n) s

/-- `RegWrite(a, v)` (R117). -/
def regWrite (a : Byte) (v : Word) (s : State) : Port :=
  command (.writeRegister a v) (chipRegWrite a v) s

/-- `RegOr(a, m)` (R118). -/
def regOr (a : Byte) (m : Word) (s : State) : Port :=
  command (.writeRegisterOrMask a m) (chipRegOr a m) s

/-- `RegAnd(a, m)` (R119). -/
def regAnd (a : Byte) (m : Word) (s : State) : Port :=
  command (.writeRegisterAndMask a m) (chipRegAnd a m) s

/-- `RegRead(a)` (R120): the value is `u32le ret`. -/
def regRead (a : Byte) (s : State) : Port := query (.readRegister a) 4 s

/-- `EepromRead(a, n)` (R121). -/
def eepromRead (a n : Byte) (s : State) : Port := query (.readEeprom a n) n.toNat s

/-- `SendData(f)` (R122). -/
def sendData (f : Bytes) (s : State) : Port := exchange (encode (.sendData f)).2 s

/-- `ReadData(n)` (R123). -/
def readData (n : Nat) (s : State) : Port := query .readData n s

/-- `ClearIrq()` (R125). -/
def clearIrq (s : State) : Port := regWrite Config.regIrqClear Config.irqClearAll s

/-- `SetMode(m)` (R126). -/
def setMode (m : Word) (s : State) : Port :=
  (regAnd Config.regSystemConfig (~~~Config.commandMask) s).bind fun s =>
    if m = 0 then .done s else regOr Config.regSystemConfig m s

/-! ## The CHIP_CMD rows -/

/-- A chip-port operation run alone (log 3). In FAULT the unit issues no exchange and keeps its result
(60_exceptions.md R290). -/
def runAlone (op : State → Port) (s : State) : State := if s.st = .fault then s else (op s).state

/-- WRITE_REGISTER (R117). -/
def execWriteRegister (addr : Byte) (value : Word) (s : State) : Host.Outcome State Fault Refusal :=
  .next (runAlone (regWrite addr value) s)

/-- WRITE_REGISTER_OR_MASK (R118). -/
def execWriteRegisterOrMask (addr : Byte) (mask : Word) (s : State) : Host.Outcome State Fault Refusal :=
  .next (runAlone (regOr addr mask) s)

/-- WRITE_REGISTER_AND_MASK (R119). -/
def execWriteRegisterAndMask (addr : Byte) (mask : Word) (s : State) : Host.Outcome State Fault Refusal :=
  .next (runAlone (regAnd addr mask) s)

/-- READ_REGISTER (R120). -/
def execReadRegister (addr : Byte) (s : State) : Host.Outcome State Fault Refusal :=
  .next (runAlone (regRead addr) s)

/-- READ_EEPROM (R121). -/
def execReadEeprom (addr len : Byte) (s : State) : Host.Outcome State Fault Refusal :=
  .next (runAlone (eepromRead addr len) s)

/-- SEND_DATA (R122). What the frame may change of a tag's memory is unknown from here on (20_memory.md R72; log 11). -/
def execSendData (frame : Bytes) (s : State) : Host.Outcome State Fault Refusal :=
  .next (runAlone (fun s => sendData frame { s with tag_mem := knownAfterFrame frame s.tag_mem }) s)

/-- READ_DATA (R123): `n` is the register `rxn`. -/
def execReadData (s : State) : Host.Outcome State Fault Refusal :=
  .next (runAlone (fun s => readData s.rxn.toNat s) s)

end Sys2Proof.Machine
end

