-- ==== Sys2Proof/Machine/Transceive.lean ====
section
/-!
DEFINITION. The transceive state machine (41_transceive.md R140 to R159), one definition per state.
-/

namespace Sys2Proof.Machine

open Sys2Proof

/-- Entry (R140). What the frame may change of a tag's memory is unknown from here on (20_memory.md R72; log 11). -/
def enterTransceive (f : Bytes) (s : State) : State :=
  { s with txf := f, st := .xClr, tag_mem := knownAfterFrame f s.tag_mem }

/-- The no-answer result (R157), on its way to the restore. -/
def noAnswerResult (s : State) : State :=
  { s with tflags := Config.noAnswerFlags, tpayload := [], st := .xRestore }

/-- R141. -/
def xClr (s : State) : State := (clearIrq s).andThen fun s => { s with st := .xMode }

/-- R142. -/
def xMode (s : State) : State := (setMode Config.modeTransceive s).andThen fun s => { s with st := .xChk }

/-- The WAIT_TRANSMIT check (R144): send, or latch PROTOCOL_STATE, clean up and end the request. -/
def chkTransmit (s : State) : State :=
  if s.ts = Config.waitTransmit then { s with st := .xSend }
  else (setMode Config.modeIdle { s with fault := .protocolState }).andThen protocolStateError

/-- R143. -/
def xChk (s : State) : State :=
  (regRead Config.regRfStatus s).andThen fun s =>
    chkTransmit { s with ts := bitField 3 Config.tsLsb (u32le s.ret) }

/-- R146. -/
def xSend (s : State) : State :=
  (sendData s.txf s).andThen fun s => { s with smp := 0, st := .xASample }

/-- The tests of R148 on a sample. -/
def aSampled (s : State) : State :=
  if s.irq &&& Config.irqRxStartMask ≠ 0 then { s with smp := 0, st := .xBSample }
  else if s.smp = Config.samplesA then noAnswerResult s
  else { s with st := .xAWait }

/-- R148. -/
def xASample (s : State) : State :=
  (regRead Config.regIrqStatus s).andThen fun s =>
    aSampled { s with irq := u32le s.ret, smp := s.smp + 1 }

/-- R149. -/
def xAWait (s : State) : State := { wait s with st := .xASample }

/-- The tests of R152 on a sample. -/
def bSampled (s : State) : State :=
  if s.irq &&& Config.irqRxDoneMask ≠ 0 then { s with st := .xRxstat }
  else if s.smp = Config.samplesB then noAnswerResult s
  else { s with st := .xBWait }

/-- R152. -/
def xBSample (s : State) : State :=
  (regRead Config.regIrqStatus s).andThen fun s =>
    bSampled { s with irq := u32le s.ret, smp := s.smp + 1 }

/-- R153. -/
def xBWait (s : State) : State := { wait s with st := .xBSample }

/-- R154: a count of 0 is the empty response. -/
def xRxstat (s : State) : State :=
  (regRead Config.regRxStatus s).andThen fun s =>
    let s := { s with rxn := bitField 9 Config.rxnLsb (u32le s.ret) }
    if s.rxn = 0 then noAnswerResult s else { s with st := .xRxdata }

/-- R155, R156. -/
def xRxdata (s : State) : State :=
  (readData s.rxn.toNat s).andThen fun s =>
    { s with rxb := s.ret, tflags := s.ret.headD 0, tpayload := s.ret.tail, st := .xRestore }

/-- Where the subroutine returns to: the decoder, or the mapper's state (R140). -/
def returnState : Request → St
  | .op (.memRead _ _ _) => .mRead
  | .op (.memWrite _ _ _) => .mWchunk
  | _ => .decode

/-- R158. -/
def xRestore (s : State) : State :=
  (setMode Config.modeIdle s).andThen fun s => { s with st := returnState s.rq }

end Sys2Proof.Machine
end

