-- ==== Sys2Proof/Machine/Mapper.lean ====
section
/-!
DEFINITION. The mapper (44_tag_memory.md): the checks and address arithmetic that start a MEM_READ or MEM_WRITE, and the
states M_READ and M_WCHUNK that take the reply of each transceive (log 14).
-/

namespace Sys2Proof.Machine

open Sys2Proof

/-- The mapper's registers of R252. -/
def setPlan (tag : TagRec) (p : MapPlan) (s : State) : State :=
  { s with
    m_tag := tag
    m_skip := BitVec.ofNat 5 p.skip
    m_start := BitVec.ofNat 8 p.startBlock
    m_nblk := p.nblk }

/-- MEM_READ up to its transceive: the checks in the order of R255, then R256. -/
def startMemRead (tag : TagRec) (offset length : Half) (s : State) : State :=
  if !geometryOk tag then publish { cls := .geometryError } s
  else if !rangeOk tag offset.toNat length.toNat then publish { cls := .rangeError } s
  else if length = 0 then publish { cls := .ok } s
  else
    let p := mapPlan tag.bs offset.toNat length.toNat
    enterTransceive (memReadFrame tag p) (setPlan tag p s)

/-- M_READ: the reply of the one transceive (R256, R257). -/
def mRead (s : State) : State :=
  match s.rq with
  | .op (.memRead _ _ length) => publish (readReply s.m_skip.toNat length.toNat s.tflags s.tpayload) s
  | _ => badRequest s

/-- The absolute block index of chunk `m_idx` (R259, R261). -/
def chunkBlock (s : State) : Nat := s.m_start.toNat + s.m_idx

/-- Start the transceive of chunk `m_idx` (R259). -/
def startChunk (s : State) : State :=
  enterTransceive (chunkFrame s.m_tag (chunkBlock s) (chunkOf s.m_tag.bs s.m_idx s.m_wbuf)) s

/-- MEM_WRITE up to its first transceive: the checks in the order of R255, then R259. -/
def startMemWrite (tag : TagRec) (offset : Half) (data : Bytes) (s : State) : State :=
  if !geometryOk tag then publish { cls := .geometryError } s
  else if !rangeOk tag offset.toNat data.length then publish { cls := .rangeError } s
  else if data = [] then publish { cls := .ok } s
  else
    let p := mapPlan tag.bs offset.toNat data.length
    startChunk { setPlan tag p s with m_idx := 0, m_wbuf := paddedData p data }

/-- The acknowledged write of chunk `m_idx` (R262: `BlockWrite(b, chunk)` on the tag). -/
def chunkWritten (s : State) : State :=
  { s with
    r_flags := some s.tflags
    tag_mem := memWrite (blockAddr s.m_tag (chunkBlock s)) (chunkOf s.m_tag.bs s.m_idx s.m_wbuf) s.tag_mem
    m_idx := s.m_idx + 1 }

/-- After an acknowledged chunk: the next chunk, or the end of the request (R259). -/
def nextChunk (s : State) : State :=
  if s.m_idx < s.m_nblk then startChunk s
  else publish { cls := .ok, flags := s.r_flags } s

/-- M_WCHUNK: classify the reply to chunk `m_idx` (R260); a failure ends the request, no further chunk is written. -/
def mWchunk (s : State) : State :=
  match chunkFailure (BitVec.ofNat 8 (chunkBlock s)) s.tflags s.tpayload with
  | some r => publish r s
  | none => nextChunk (chunkWritten s)

end Sys2Proof.Machine
end

