-- ==== Sys2Proof/Machine/Sequencer.lean ====
section
/-!
DEFINITION. The sequencer (10_state.md R22): VALIDATE (30_encoding.md R88), CODEC (40_chip_port.md R127 to R132), DECODE
(43_iso15693_decoder.md R227), one step of the unit, and a whole request from its acceptance to its publication.
-/

namespace Sys2Proof.Machine

open Sys2Proof

/-! ## VALIDATE -/

/-- Start the one transceive of an RF request that does not go through the mapper. -/
def startRf (ok : Bool) (frame : Bytes) (s : State) : State :=
  if ok then enterTransceive frame s else badRequest s

/-- ISO_CMD and its mnemonics (42 R180). -/
def startIso (r : IsoReq) (s : State) : State :=
  startRf (isoReqOk r) (isoEncode r) s

/-- ISO_RAW and RAW (42 R204). -/
def startRaw (code flags : Byte) (uid : Option Uid) (raw : Bytes) (s : State) : State :=
  startRf (decide ((rawFrame code flags uid raw).length ≤ Config.maxTxFrame)) (rawFrame code flags uid raw) s

/-- A passthrough request goes to CODEC when its operands are in range (R88 (2)). -/
def startCodec (ok : Bool) (s : State) : State := if ok then { s with st := .codec } else badRequest s

/-- The checks of R88 and the first state of the request's rule. -/
def validate (s : State) : State :=
  match s.rq with
  | .illegal _ => badRequest s
  | .op i =>
    match isoReqOf i with
    | some r => startIso r s
    | none =>
      match i with
      | .transceive frame => startRf (frameOk frame) frame s
      | .isoRaw code flags uid raw => startRaw code flags uid raw s
      | .raw code flags uid raw => startRaw code flags uid raw s
      | .memRead tag offset length => startMemRead tag offset length s
      | .memWrite tag offset data =>
          if dataLengthOk data then startMemWrite tag offset data s else badRequest s
      | .chipIdle | .regWrite _ _ | .regOr _ _ | .regAnd _ _ | .regRead _ => startCodec true s
      | .eepromRead _ len => startCodec (decide (1 ≤ len.toNat)) s
      | _ => badRequest s

/-! ## CODEC -/

/-- `finish OK()` of a passthrough request: every other response register is "none" (40 R127, R133). -/
def finishOk (s : State) : State := publish { cls := .ok } s

/-- CHIP_IDLE (R127). -/
def codecChipIdle (s : State) : State :=
  ((clearIrq s).bind (setMode Config.modeIdle)).andThen finishOk

/-- REG_WRITE (R128). -/
def codecRegWrite (addr : Byte) (value : Word) (s : State) : State := (regWrite addr value s).andThen finishOk

/-- REG_OR (R129). -/
def codecRegOr (addr : Byte) (mask : Word) (s : State) : State := (regOr addr mask s).andThen finishOk

/-- REG_AND (R130). -/
def codecRegAnd (addr : Byte) (mask : Word) (s : State) : State := (regAnd addr mask s).andThen finishOk

/-- REG_READ (R131). -/
def codecRegRead (addr : Byte) (s : State) : State :=
  (regRead addr s).andThen fun s =>
    publish { cls := .ok, val := some (u32le s.ret), data := le32 (u32le s.ret) } s

/-- EEPROM_READ (R132). -/
def codecEepromRead (addr len : Byte) (s : State) : State :=
  (eepromRead addr len s).andThen fun s => publish { cls := .ok, data := s.ret } s

/-- CODEC: the passthrough request in `rq`. -/
def codec (s : State) : State :=
  match s.rq with
  | .op .chipIdle => codecChipIdle s
  | .op (.regWrite addr value) => codecRegWrite addr value s
  | .op (.regOr addr mask) => codecRegOr addr mask s
  | .op (.regAnd addr mask) => codecRegAnd addr mask s
  | .op (.regRead addr) => codecRegRead addr s
  | .op (.eepromRead addr len) => codecEepromRead addr len s
  | _ => badRequest s

/-! ## DECODE -/

/-- DECODE: classify the reply of the request in `rq` and publish it. -/
def decodeStep (s : State) : State :=
  match s.rq with
  | .op i => publish (decodeReply i s.tflags s.tpayload) s
  | .illegal _ => badRequest s

/-! ## One step of the unit, and a whole request -/

/-- The step the state `st` names (R22). -/
def seqStep (s : State) : State :=
  match s.st with
  | .ready => s
  | .validate => validate s
  | .codec => codec s
  | .xClr => xClr s
  | .xMode => xMode s
  | .xChk => xChk s
  | .xSend => xSend s
  | .xASample => xASample s
  | .xAWait => xAWait s
  | .xBSample => xBSample s
  | .xBWait => xBWait s
  | .xRxstat => xRxstat s
  | .xRxdata => xRxdata s
  | .xRestore => xRestore s
  | .decode => decodeStep s
  | .mRead => mRead s
  | .mWchunk => mWchunk s
  | .done => s
  | .fault => s

/-- One step of the unit; a reset due before it is taken instead (70 R320). -/
def unitStep (s : State) : State := (sampleRst s).andThen seqStep

/-- Steps of the unit while it has one to take, at most `n`. -/
def runSeq : Nat → State → State
  | 0, s => s
  | n + 1, s => if s.running then runSeq n (unitStep s) else s

/-- Acceptance (R25, 60 R291): latch the request, clear `rsp_valid`, enter VALIDATE. -/
def accept (r : Request) (s : State) : State := { s with rq := r, rsp_valid := false, st := .validate }

/-- A request presented to the unit: accepted when `req_ready = 1` and carried out to its end; held, and nothing
changed, when it is not (R23). -/
def request (r : Request) (s : State) : State :=
  if s.req_ready then runSeq Config.maxSteps (accept r s) else s

end Sys2Proof.Machine
end

