-- ==== Sys2Proof/Machine/HostOps.lean ====
section
/-!
DEFINITION. The meanings of the HOST_REQ rows (30_encoding.md R87), each a request carried out by the sequencer.
-/

namespace Sys2Proof.Machine

open Sys2Proof

/-- TRANSCEIVE (41_transceive.md R161): the frame verbatim, then the generic arbitration. -/
def execTransceive (frame : Bytes) (s : State) : Host.Outcome State Fault Refusal :=
  .next (request (.op (.transceive frame)) s)

/-- ISO_CMD (42_iso15693_encoder.md R180): encode, transceive, decode. -/
def execIsoCmd (cmd flags : Byte) (uid : Option Uid) (args : IsoArgs) (s : State) :
    Host.Outcome State Fault Refusal :=
  .next (request (.op (.isoCmd cmd flags uid args)) s)

/-- MEM_READ (44_tag_memory.md R256). -/
def execMemRead (tag : TagRec) (offset length : Half) (s : State) : Host.Outcome State Fault Refusal :=
  .next (request (.op (.memRead tag offset length)) s)

/-- MEM_WRITE (44_tag_memory.md R259). -/
def execMemWrite (tag : TagRec) (offset : Half) (data : Bytes) (s : State) :
    Host.Outcome State Fault Refusal :=
  .next (request (.op (.memWrite tag offset data)) s)

/-- CHIP_IDLE (40_chip_port.md R127). -/
def execChipIdle (s : State) : Host.Outcome State Fault Refusal :=
  .next (request (.op .chipIdle) s)

/-- ISO_RAW (42_iso15693_encoder.md R204). -/
def execIsoRaw (code flags : Byte) (uid : Option Uid) (raw : Bytes) (s : State) :
    Host.Outcome State Fault Refusal :=
  .next (request (.op (.isoRaw code flags uid raw)) s)

/-- REG_WRITE (40_chip_port.md R128). -/
def execRegWrite (addr : Byte) (value : Word) (s : State) : Host.Outcome State Fault Refusal :=
  .next (request (.op (.regWrite addr value)) s)

/-- REG_OR (40_chip_port.md R129). -/
def execRegOr (addr : Byte) (mask : Word) (s : State) : Host.Outcome State Fault Refusal :=
  .next (request (.op (.regOr addr mask)) s)

/-- REG_AND (40_chip_port.md R130). -/
def execRegAnd (addr : Byte) (mask : Word) (s : State) : Host.Outcome State Fault Refusal :=
  .next (request (.op (.regAnd addr mask)) s)

/-- REG_READ (40_chip_port.md R131). -/
def execRegRead (addr : Byte) (s : State) : Host.Outcome State Fault Refusal :=
  .next (request (.op (.regRead addr)) s)

/-- EEPROM_READ (40_chip_port.md R132). -/
def execEepromRead (addr len : Byte) (s : State) : Host.Outcome State Fault Refusal :=
  .next (request (.op (.eepromRead addr len)) s)

end Sys2Proof.Machine
end

