-- ==== Sys2Proof/Machine/IsoCommands.lean ====
section
/-!
DEFINITION. The meanings of the ISO_REQ rows (30_encoding.md R94): each the ISO_CMD request with `cmd` set to its code
(R111), and RAW, ISO_RAW's frame.
-/

namespace Sys2Proof.Machine

open Sys2Proof

/-- INVENTORY (42_iso15693_encoder.md R183; reply 43 R228, R229). -/
def execInventory (s : State) : Host.Outcome State Fault Refusal :=
  .next (request (.op .inventory) s)

/-- STAY_QUIET (R184; reply 43 R237). -/
def execStayQuiet (flags : Byte) (uid : Option Uid) (s : State) : Host.Outcome State Fault Refusal :=
  .next (request (.op (.stayQuiet flags uid)) s)

/-- READ_SINGLE_BLOCK (R185; reply 43 R234). -/
def execReadSingleBlock (flags : Byte) (uid : Option Uid) (block : Byte) (s : State) :
    Host.Outcome State Fault Refusal :=
  .next (request (.op (.readSingleBlock flags uid block)) s)

/-- WRITE_SINGLE_BLOCK (R186; reply 43 R236). -/
def execWriteSingleBlock (flags : Byte) (uid : Option Uid) (block : Byte) (data : Bytes) (s : State) :
    Host.Outcome State Fault Refusal :=
  .next (request (.op (.writeSingleBlock flags uid block data)) s)

/-- LOCK_BLOCK (R187; reply 43 R236). -/
def execLockBlock (flags : Byte) (uid : Option Uid) (block : Byte) (s : State) :
    Host.Outcome State Fault Refusal :=
  .next (request (.op (.lockBlock flags uid block)) s)

/-- READ_MULTIPLE_BLOCK (R188; reply 43 R234). -/
def execReadMultipleBlock (flags : Byte) (uid : Option Uid) (first : Byte) (count : Nat) (s : State) :
    Host.Outcome State Fault Refusal :=
  .next (request (.op (.readMultipleBlock flags uid first count)) s)

/-- WRITE_MULTIPLE_BLOCK (R189; reply 43 R233). -/
def execWriteMultipleBlock (flags : Byte) (uid : Option Uid) (first : Byte) (count : Nat) (data : Bytes) (s : State) :
    Host.Outcome State Fault Refusal :=
  .next (request (.op (.writeMultipleBlock flags uid first count data)) s)

/-- SELECT (R190; reply 43 R236). -/
def execSelect (flags : Byte) (uid : Option Uid) (s : State) : Host.Outcome State Fault Refusal :=
  .next (request (.op (.select flags uid)) s)

/-- RESET_TO_READY (R191; reply 43 R236). -/
def execResetToReady (flags : Byte) (uid : Option Uid) (s : State) : Host.Outcome State Fault Refusal :=
  .next (request (.op (.resetToReady flags uid)) s)

/-- WRITE_AFI (R192; reply 43 R236). -/
def execWriteAfi (flags : Byte) (uid : Option Uid) (afi : Byte) (s : State) :
    Host.Outcome State Fault Refusal :=
  .next (request (.op (.writeAfi flags uid afi)) s)

/-- LOCK_AFI (R193; reply 43 R236). -/
def execLockAfi (flags : Byte) (uid : Option Uid) (s : State) : Host.Outcome State Fault Refusal :=
  .next (request (.op (.lockAfi flags uid)) s)

/-- WRITE_DSFID (R194; reply 43 R236). -/
def execWriteDsfid (flags : Byte) (uid : Option Uid) (dsfid : Byte) (s : State) :
    Host.Outcome State Fault Refusal :=
  .next (request (.op (.writeDsfid flags uid dsfid)) s)

/-- LOCK_DSFID (R195; reply 43 R236). -/
def execLockDsfid (flags : Byte) (uid : Option Uid) (s : State) : Host.Outcome State Fault Refusal :=
  .next (request (.op (.lockDsfid flags uid)) s)

/-- GET_SYSTEM_INFORMATION (R196; reply 43 R230 to R232). -/
def execGetSystemInformation (flags : Byte) (uid : Option Uid) (s : State) :
    Host.Outcome State Fault Refusal :=
  .next (request (.op (.getSystemInformation flags uid)) s)

/-- GET_MULTIPLE_BLOCK_SECURITY_STATUS (R197; reply 43 R235). -/
def execGetMultipleBlockSecurityStatus (flags : Byte) (uid : Option Uid) (first : Byte) (count : Nat) (s : State) :
    Host.Outcome State Fault Refusal :=
  .next (request (.op (.getMultipleBlockSecurityStatus flags uid first count)) s)

/-- VENDOR_C0 (R198; reply 43 R238). -/
def execVendorC0 (flags : Byte) (uid : Option Uid) (raw : Bytes) (s : State) :
    Host.Outcome State Fault Refusal :=
  .next (request (.op (.vendorC0 flags uid raw)) s)

/-- VENDOR_C1 (R199; reply 43 R238). -/
def execVendorC1 (flags : Byte) (uid : Option Uid) (raw : Bytes) (s : State) :
    Host.Outcome State Fault Refusal :=
  .next (request (.op (.vendorC1 flags uid raw)) s)

/-- VENDOR_C2 (R200; reply 43 R238). -/
def execVendorC2 (flags : Byte) (uid : Option Uid) (raw : Bytes) (s : State) :
    Host.Outcome State Fault Refusal :=
  .next (request (.op (.vendorC2 flags uid raw)) s)

/-- VENDOR_C3 (R201; reply 43 R238). -/
def execVendorC3 (flags : Byte) (uid : Option Uid) (raw : Bytes) (s : State) :
    Host.Outcome State Fault Refusal :=
  .next (request (.op (.vendorC3 flags uid raw)) s)

/-- VENDOR_C4 (R202; reply 43 R238). -/
def execVendorC4 (flags : Byte) (uid : Option Uid) (raw : Bytes) (s : State) :
    Host.Outcome State Fault Refusal :=
  .next (request (.op (.vendorC4 flags uid raw)) s)

/-- RAW (30_encoding.md R102; R204; reply 43 R238). -/
def execRaw (code flags : Byte) (uid : Option Uid) (raw : Bytes) (s : State) :
    Host.Outcome State Fault Refusal :=
  .next (request (.op (.raw code flags uid raw)) s)

end Sys2Proof.Machine
end

