-- ==== Sys2Proof/Machine/Dispatch.lean ====
section
/-!
DEFINITION. The dispatch: one arm per instruction, each a direct call of its meaning.
-/

namespace Sys2Proof.Machine

open Sys2Proof

def exec (i : Instr) (s : State) : Host.Outcome State Fault Refusal :=
  match i with
  | .transceive frame => Sys2Proof.Machine.execTransceive frame s
  | .isoCmd cmd flags uid args => Sys2Proof.Machine.execIsoCmd cmd flags uid args s
  | .memRead tag offset length => Sys2Proof.Machine.execMemRead tag offset length s
  | .memWrite tag offset data => Sys2Proof.Machine.execMemWrite tag offset data s
  | .chipIdle => Sys2Proof.Machine.execChipIdle s
  | .isoRaw code flags uid raw => Sys2Proof.Machine.execIsoRaw code flags uid raw s
  | .regWrite addr value => Sys2Proof.Machine.execRegWrite addr value s
  | .regOr addr mask => Sys2Proof.Machine.execRegOr addr mask s
  | .regAnd addr mask => Sys2Proof.Machine.execRegAnd addr mask s
  | .regRead addr => Sys2Proof.Machine.execRegRead addr s
  | .eepromRead addr len => Sys2Proof.Machine.execEepromRead addr len s
  | .inventory => Sys2Proof.Machine.execInventory s
  | .stayQuiet flags uid => Sys2Proof.Machine.execStayQuiet flags uid s
  | .readSingleBlock flags uid block => Sys2Proof.Machine.execReadSingleBlock flags uid block s
  | .writeSingleBlock flags uid block data => Sys2Proof.Machine.execWriteSingleBlock flags uid block data s
  | .lockBlock flags uid block => Sys2Proof.Machine.execLockBlock flags uid block s
  | .readMultipleBlock flags uid first count => Sys2Proof.Machine.execReadMultipleBlock flags uid first count s
  | .writeMultipleBlock flags uid first count data => Sys2Proof.Machine.execWriteMultipleBlock flags uid first count data s
  | .select flags uid => Sys2Proof.Machine.execSelect flags uid s
  | .resetToReady flags uid => Sys2Proof.Machine.execResetToReady flags uid s
  | .writeAfi flags uid afi => Sys2Proof.Machine.execWriteAfi flags uid afi s
  | .lockAfi flags uid => Sys2Proof.Machine.execLockAfi flags uid s
  | .writeDsfid flags uid dsfid => Sys2Proof.Machine.execWriteDsfid flags uid dsfid s
  | .lockDsfid flags uid => Sys2Proof.Machine.execLockDsfid flags uid s
  | .getSystemInformation flags uid => Sys2Proof.Machine.execGetSystemInformation flags uid s
  | .getMultipleBlockSecurityStatus flags uid first count => Sys2Proof.Machine.execGetMultipleBlockSecurityStatus flags uid first count s
  | .vendorC0 flags uid raw => Sys2Proof.Machine.execVendorC0 flags uid raw s
  | .vendorC1 flags uid raw => Sys2Proof.Machine.execVendorC1 flags uid raw s
  | .vendorC2 flags uid raw => Sys2Proof.Machine.execVendorC2 flags uid raw s
  | .vendorC3 flags uid raw => Sys2Proof.Machine.execVendorC3 flags uid raw s
  | .vendorC4 flags uid raw => Sys2Proof.Machine.execVendorC4 flags uid raw s
  | .raw code flags uid raw => Sys2Proof.Machine.execRaw code flags uid raw s
  | .writeRegister addr value => Sys2Proof.Machine.execWriteRegister addr value s
  | .writeRegisterOrMask addr mask => Sys2Proof.Machine.execWriteRegisterOrMask addr mask s
  | .writeRegisterAndMask addr mask => Sys2Proof.Machine.execWriteRegisterAndMask addr mask s
  | .readRegister addr => Sys2Proof.Machine.execReadRegister addr s
  | .readEeprom addr len => Sys2Proof.Machine.execReadEeprom addr len s
  | .sendData frame => Sys2Proof.Machine.execSendData frame s
  | .readData => Sys2Proof.Machine.execReadData s

end Sys2Proof.Machine
end

