-- ==== Sys2Proof/Machine/Fetch.lean ====
section
/-!
DEFINITION. Where the next instruction's bytes stand: a request record at HOST's port, or a chip command frame at the
chip port (log 2, log 3).
-/

namespace Sys2Proof.Machine

open Sys2Proof

/-- The instruction of a request record. A chip command is no request of HOST's (30_encoding.md R87, R103). -/
def decodeRecord (format : Format) (bytes : Bytes) : Except DecodeError Instr :=
  match format with
  | .chipCmd => .error .empty
  | f => decode f bytes

/-- Let the unit be able to take a request. -/
def makeReady (s : State) : State :=
  if s.req_ready then { s with rst := [] } else { s with rst := [], st := .ready, fault := .none }

/-- Put an instruction's bytes where the next step fetches them. -/
def placeRecord (r : Format × Bytes) (s : State) : State :=
  match r.1 with
  | .chipCmd => { makeReady s with chip_port := some r.2 }
  | f => { makeReady s with chip_port := none, host := .record f r.2 :: s.host }

end Sys2Proof.Machine
end

