-- ==== Sys2Proof/Machine/Session.lean ====
section
/-!
DEFINITION. The TagSession host: one tick (60_exceptions.md R300 to R304) as one move of HOST (log 16).
-/

namespace Sys2Proof.Machine

open Sys2Proof

/-- The tracked UID, `old` of R300. -/
def sessionUid : Session → Option Uid
  | .noTag => none
  | .tagPresent uid _ _ => some uid

/-- The request the tick made has published a result class that is no fault; otherwise the tick stops at that request
(R302). A request that a reset abandoned has published nothing (70 R322). -/
def tickGoesOn (s : State) : Bool := s.rsp_valid && decide (s.fault = .none)

/-- `new` of R302: the INVENTORY's UID, if it ended OK. -/
def inventoryUid (s : State) : Option Uid := if s.r_cls = .ok then s.r_uid else none

/-- The tracked tag is dropped with its geometry, and its loss emitted. -/
def dropTag (s : State) : State :=
  match sessionUid s.session with
  | none => s
  | some old => { s with session := .noTag, events := s.events ++ [.tagLost old] }

/-- The Tag record built from a GET_SYSTEM_INFORMATION result that ended OK; anything else leaves the session. -/
def adoptTag (uid : Uid) (s : State) : State :=
  if tickGoesOn s && decide (s.r_cls = .ok) then
    match s.r_info with
    | none => s
    | some info =>
      { s with
        session := .tagPresent uid info.blockSize info.numBlocks
        events := s.events ++ [.tagFound ⟨uid, info.blockSize, info.numBlocks⟩] }
  else s

/-- The steps of R302 after the INVENTORY has ended with a result class. -/
def tickInventoried (s : State) : State :=
  let new := inventoryUid s
  if new = sessionUid s.session then s
  else
    let s := dropTag s
    match new with
    | none => s
    | some uid =>
      adoptTag uid (request (.op (.getSystemInformation Config.defaultReqFlags (some uid))) s)

/-- `tick()` of R302, run only when the unit can take a request. -/
def tick (s : State) : State :=
  let s := request (.op .inventory) s
  if tickGoesOn s then tickInventoried s else s

end Sys2Proof.Machine
end

