-- ==== Sys2Proof/Machine/Run.lean ====
section
/-!
DEFINITION. What a step runs: HOST's next move when the unit can take one, the rest of a request where one is in
progress, or the fault that a latched FAULT is.
-/

namespace Sys2Proof.Machine

open Sys2Proof

/-- HOST's next move, when `req_ready = 1`. With none the unit issues nothing (60_exceptions.md R299). A record that
is no instruction is accepted and ends with BAD_REQUEST (30_encoding.md R88, R101; log 19). -/
def runHost (s : State) : Host.Outcome State Fault Refusal :=
  match s.host with
  | [] => .next s
  | .tick :: rest => .next (tick { s with host := rest })
  | .record format bytes :: rest =>
    match decodeRecord format bytes with
    | .ok i => exec i { s with host := rest }
    | .error _ => .next (request (.illegal bytes) { s with host := rest })

/-- A chip command frame waiting at the chip port, run alone (log 3). -/
def runChipPort (frame : Bytes) (s : State) : Host.Outcome State Fault Refusal :=
  match decode .chipCmd frame with
  | .ok i => exec i { s with chip_port := none }
  | .error e => .refused (.chipFrame e)

/-- The unit when it can take no request: it goes on with the one in progress, or stands in FAULT, which only a reset
ends (60_exceptions.md R290, 93 A14; log 10). -/
def runBusy (s : State) : Host.Outcome State Fault Refusal :=
  if s.running then .next (runSeq Config.maxSteps s)
  else if s.rst = [] then .fault (.latched s.fault)
  else .next s

/-- The step after the sampling of `rst`. In FAULT nothing is taken, not even a frame at the chip port (R290). -/
def runUnit (s : State) : Host.Outcome State Fault Refusal :=
  if s.st = .fault then runBusy s
  else match s.chip_port with
    | some frame => runChipPort frame s
    | none => if s.req_ready then runHost s else runBusy s

end Sys2Proof.Machine
end

