-- ==== Sys2Proof/Machine/Step.lean ====
section
/-!
DEFINITION. One step of the machine, and where a table word's bytes are placed for it.
-/

namespace Sys2Proof.Machine

open Sys2Proof

/-- One step. An invalid configuration is refused (00_scope.md R6, 93 A15); a reset that is due is taken
(70_reset_and_hazards.md R320). -/
def step (s : State) : Host.Outcome State Fault Refusal :=
  if Config.valid then
    match sampleRst s with
    | .ended s => .next s
    | .done s => runUnit s
  else .refused .badParameters

/-- HOST presents the table word's record (or the chip port holds its frame), and the unit can take it: no reset is
due, no fault is latched, no request is in progress (log 4, log 20). -/
def State.withFetchWord (s : State) (nbits w : Nat) : State := placeRecord (tableRecord nbits w) s

end Sys2Proof.Machine
end

