-- ==== Sys2Proof/Safety.lean ====
section
/-!
DEFINITION. What claims are said in. The bytes, frames, replies and bounds below are written out from the tables of
spec/ and call no meaning of Machine/, so that a claim compares the machine with the spec's own figures; and the facts
that hold between two steps.
-/

namespace Sys2Proof.Machine

open Sys2Proof

/-! ## The CHIP's coming answers -/

/-- What the exchange number `k` from now (0 is the next) answers if it sends `n` bytes; `none` where it fails. -/
def answerAt (k n : Nat) (s : State) : Option Bytes :=
  drawn n { s with chip_in := s.chip_in.drop k, nx := s.nx + k }

/-- The register value that the four fill bytes of exchange number `k` bring. -/
def valueAt (k : Nat) (s : State) : Word := u32le ((answerAt k 4 s).getD [])

/-- The entries of the exchange log for these byte strings, sent from exchange number `k` on. -/
def sentFrom (k : Nat) (s : State) : List Bytes → List Xchg
  | [] => []
  | tx :: txs => ⟨tx, answerAt k tx.length s⟩ :: sentFrom (k + 1) s txs

/-- The entries for these byte strings, the next exchange first. -/
def State.sent (txs : List Bytes) (s : State) : List Xchg := sentFrom 0 s txs

/-- Every one of these exchanges returns. -/
def State.allReturn (txs : List Bytes) (s : State) : Bool := (s.sent txs).all fun x => x.rx.isSome

/-- Of these byte strings, those up to the first whose exchange fails, that one too. -/
def triedFrom (k : Nat) (s : State) : List Bytes → List Bytes
  | [] => []
  | tx :: txs => if (answerAt k tx.length s).isSome then tx :: triedFrom (k + 1) s txs else [tx]

/-- The state after these exchanges: the answers taken and logged, the last bytes returned in `ret`. -/
def State.afterExchanges (txs : List Bytes) (s : State) : State :=
  { s with
    chip_in := s.chip_in.drop txs.length
    nx := s.nx + txs.length
    log := s.log ++ s.sent txs
    ret := ((s.sent txs).filterMap fun x => x.rx).getLast?.getD s.ret }

/-! ## How a request ends (60_exceptions.md R284) -/

/-- Every response register written, `rsp_valid` set. -/
def State.responded (r : Rsp) (s : State) : State :=
  { s with
    r_cls := r.cls
    r_code := r.code
    r_blk := r.blk
    r_flags := r.flags
    r_data := r.data
    r_val := r.val
    r_uid := r.uid
    r_info := r.info
    rsp_valid := true }

/-- A result: the unit is in DONE. -/
def State.finished (r : Rsp) (s : State) : State := { s.responded r with st := .done }

/-- A fault: it is latched, and the unit is in FAULT. -/
def State.faulted (f : FaultLatch) (r : Rsp) (s : State) : State := { s.responded r with st := .fault, fault := f }

/-- A TransportError; nothing is known of the chip's registers any more (60 R285; log 12). -/
def State.transportFailed (s : State) : State :=
  { s.faulted .transport { cls := .transportError } with chip_img := [] }

/-- These exchanges, then `good` if all of them returned, a TransportError at the first that failed otherwise. -/
def State.attempt (txs : List Bytes) (good : State → State) (s : State) : State :=
  if s.allReturn txs then good (s.afterExchanges txs)
  else (s.afterExchanges (triedFrom 0 s txs)).transportFailed

/-! ## Chip command frames (30_encoding.md R89, R90) -/

/-- ClearIrq (40_chip_port.md R125). -/
def clearIrqTx : Bytes := [0x00, 0x03, 0xFF, 0xFF, 0x0F, 0x00]

/-- SetMode(MODE_IDLE), and the first exchange of SetMode(MODE_TRANSCEIVE) (40 R126). -/
def modeAndTx : Bytes := [0x02, 0x00, 0xF8, 0xFF, 0xFF, 0xFF]

/-- The second exchange of SetMode(MODE_TRANSCEIVE) (40 R126). -/
def modeOrTx : Bytes := [0x01, 0x00, 0x03, 0x00, 0x00, 0x00]

/-- The fill bytes of a register read. -/
def fillTx : Bytes := [0xFF, 0xFF, 0xFF, 0xFF]

/-- A register read (40 R120). -/
def readTx (a : Byte) : List Bytes := [[0x04, a], fillTx]

/-- An exchange that sends a frame to the tag: SEND_DATA. -/
def isSend (x : Xchg) : Bool := x.tx.head? == some 0x09

/-- What is known of SYSTEM_CONFIG after SetMode(MODE_IDLE). -/
def idleImg (img : List (Nat × ChipReg)) : List (Nat × ChipReg) := chipRegAnd 0x00 0xFFFFFFF8 img

/-- What is known of the chip's registers after the preparation of a transceive (41_transceive.md R141, R142). -/
def preparedImg (img : List (Nat × ChipReg)) : List (Nat × ChipReg) :=
  chipRegOr 0x00 0x00000003 (idleImg (chipRegWrite 0x03 0x000FFFFF img))

/-! ## The frames of the RF requests (30_encoding.md R91 to R95, 42_iso15693_encoder.md) -/

/-- Bit 0x20 set exactly when a UID is supplied (30 R93). -/
def flagsByte (flags : Byte) (uid : Option Uid) : Byte :=
  if uid.isSome then flags ||| 0x20 else flags &&& 0xDF

/-- `[requestFlags, commandCode] ++ uidField ++ parameters` (30 R91). -/
def isoBytes (code flags : Byte) (uid : Option Uid) (params : Bytes) : Bytes :=
  [flagsByte flags uid, code] ++ (uid.map Uid.bytes).getD [] ++ params

/-- A frame is sent only if it fits the transmit buffer (30 R88). -/
def fitting (f : Bytes) : Option Bytes := if f.length ≤ 260 then some f else none

/-- A block count operand in its range (30 R94). -/
def countFits (count : Nat) : Bool := decide (1 ≤ count) && decide (count ≤ 256)

/-- The count field: `count - 1` (30 R95). -/
def countByte (count : Nat) : Byte := BitVec.ofNat 8 (count - 1)

/-- `[block] ++ data` with 1..32 bytes of data (42 R186). -/
def blockWriteFrame (flags : Byte) (uid : Option Uid) (block : Byte) (data : Bytes) : Option Bytes :=
  if 1 ≤ data.length ∧ data.length ≤ 32 then some (isoBytes 0x21 flags uid (block :: data)) else none

/-- `[first, count - 1]` (42 R188, R197). -/
def rangeFrame (code flags : Byte) (uid : Option Uid) (first : Byte) (count : Nat) : Option Bytes :=
  if countFits count then some (isoBytes code flags uid [first, countByte count]) else none

/-- `[first, count - 1] ++ data` with data (42 R189). -/
def rangeWriteFrame (flags : Byte) (uid : Option Uid) (first : Byte) (count : Nat) (data : Bytes) : Option Bytes :=
  if countFits count ∧ 1 ≤ data.length then fitting (isoBytes 0x24 flags uid (first :: countByte count :: data))
  else none

/-- The frame of ISO_CMD, by its code and operands (30 R94, 42 R183 to R203); none where they are refused. -/
def isoCmdFrame (cmd flags : Byte) (uid : Option Uid) (args : IsoArgs) : Option Bytes :=
  match args with
  | .none =>
    if cmd = 0x01 then (if uid = none then some [0x26, 0x01, 0x00] else none)
    else if cmd ∈ [0x02, 0x25, 0x26, 0x28, 0x2A, 0x2B] then some (isoBytes cmd flags uid []) else none
  | .block b => if cmd ∈ [0x20, 0x22] then some (isoBytes cmd flags uid [b]) else none
  | .blockData b data => if cmd = 0x21 then blockWriteFrame flags uid b data else none
  | .range first count => if cmd ∈ [0x23, 0x2C] then rangeFrame cmd flags uid first count else none
  | .rangeData first count data => if cmd = 0x24 then rangeWriteFrame flags uid first count data else none
  | .value v => if cmd ∈ [0x27, 0x29] then some (isoBytes cmd flags uid [v]) else none
  | .raw raw => if cmd ∈ [0xC0, 0xC1, 0xC2, 0xC3, 0xC4] then fitting (isoBytes cmd flags uid raw) else none

/-- The ISO_CMD that a mnemonic stands for: the code of its row in 30 R94, the flags and the UID it is given, and its
operands (30 R109, R111); INVENTORY has neither flags nor a UID, and the flags default to 0x02 (30 R87). -/
def mnemonicOf : Instr → Option (Byte × Byte × Option Uid × IsoArgs)
  | .inventory => some (0x01, 0x02, none, .none)
  | .stayQuiet flags uid => some (0x02, flags, uid, .none)
  | .readSingleBlock flags uid block => some (0x20, flags, uid, .block block)
  | .writeSingleBlock flags uid block data => some (0x21, flags, uid, .blockData block data)
  | .lockBlock flags uid block => some (0x22, flags, uid, .block block)
  | .readMultipleBlock flags uid first count => some (0x23, flags, uid, .range first count)
  | .writeMultipleBlock flags uid first count data => some (0x24, flags, uid, .rangeData first count data)
  | .select flags uid => some (0x25, flags, uid, .none)
  | .resetToReady flags uid => some (0x26, flags, uid, .none)
  | .writeAfi flags uid afi => some (0x27, flags, uid, .value afi)
  | .lockAfi flags uid => some (0x28, flags, uid, .none)
  | .writeDsfid flags uid dsfid => some (0x29, flags, uid, .value dsfid)
  | .lockDsfid flags uid => some (0x2A, flags, uid, .none)
  | .getSystemInformation flags uid => some (0x2B, flags, uid, .none)
  | .getMultipleBlockSecurityStatus flags uid first count => some (0x2C, flags, uid, .range first count)
  | .vendorC0 flags uid raw => some (0xC0, flags, uid, .raw raw)
  | .vendorC1 flags uid raw => some (0xC1, flags, uid, .raw raw)
  | .vendorC2 flags uid raw => some (0xC2, flags, uid, .raw raw)
  | .vendorC3 flags uid raw => some (0xC3, flags, uid, .raw raw)
  | .vendorC4 flags uid raw => some (0xC4, flags, uid, .raw raw)
  | _ => none

/-! ### The mapper's figures (44_tag_memory.md R251 to R253) -/

/-- 44 R251. -/
def geometryFits (tag : TagRec) : Bool :=
  decide (1 ≤ tag.bs) && decide (tag.bs ≤ 32) && decide (1 ≤ tag.nb) && decide (tag.nb ≤ 256)

/-- 44 R253. -/
def rangeFits (tag : TagRec) (offset len : Nat) : Bool := decide (offset + len ≤ tag.bs * tag.nb)

/-- The number of blocks that `[offset, offset + len)` touches. -/
def blocksOf (bs offset len : Nat) : Nat := (offset % bs + len + bs - 1) / bs

/-- A MEM_READ or MEM_WRITE that reaches the tag (44 R251, R253, R254). -/
def memReaches (tag : TagRec) (offset len : Nat) : Bool :=
  geometryFits tag && rangeFits tag offset len && decide (1 ≤ len)

/-- READ_MULTIPLE_BLOCK of the covered blocks, addressed, flags 0x22 (44 R250, R256). -/
def memReadBytes (tag : TagRec) (offset len : Nat) : Bytes :=
  [0x22, 0x23] ++ tag.uid.bytes
    ++ [BitVec.ofNat 8 (offset / tag.bs), BitVec.ofNat 8 (blocksOf tag.bs offset len - 1)]

/-- The one frame a request sends: a request that is carried out by one transceive and is not refused. -/
def frameOf : Instr → Option Bytes
  | .transceive f => if 1 ≤ f.length then fitting f else none
  | .isoCmd cmd flags uid args => isoCmdFrame cmd flags uid args
  | .isoRaw code flags uid raw => fitting (isoBytes code flags uid raw)
  | .memRead tag offset length =>
      if memReaches tag offset.toNat length.toNat then some (memReadBytes tag offset.toNat length.toNat) else none
  | .inventory => some [0x26, 0x01, 0x00]
  | .stayQuiet flags uid => some (isoBytes 0x02 flags uid [])
  | .readSingleBlock flags uid block => some (isoBytes 0x20 flags uid [block])
  | .writeSingleBlock flags uid block data => blockWriteFrame flags uid block data
  | .lockBlock flags uid block => some (isoBytes 0x22 flags uid [block])
  | .readMultipleBlock flags uid first count => rangeFrame 0x23 flags uid first count
  | .writeMultipleBlock flags uid first count data => rangeWriteFrame flags uid first count data
  | .select flags uid => some (isoBytes 0x25 flags uid [])
  | .resetToReady flags uid => some (isoBytes 0x26 flags uid [])
  | .writeAfi flags uid afi => some (isoBytes 0x27 flags uid [afi])
  | .lockAfi flags uid => some (isoBytes 0x28 flags uid [])
  | .writeDsfid flags uid dsfid => some (isoBytes 0x29 flags uid [dsfid])
  | .lockDsfid flags uid => some (isoBytes 0x2A flags uid [])
  | .getSystemInformation flags uid => some (isoBytes 0x2B flags uid [])
  | .getMultipleBlockSecurityStatus flags uid first count => rangeFrame 0x2C flags uid first count
  | .vendorC0 flags uid raw => fitting (isoBytes 0xC0 flags uid raw)
  | .vendorC1 flags uid raw => fitting (isoBytes 0xC1 flags uid raw)
  | .vendorC2 flags uid raw => fitting (isoBytes 0xC2 flags uid raw)
  | .vendorC3 flags uid raw => fitting (isoBytes 0xC3 flags uid raw)
  | .vendorC4 flags uid raw => fitting (isoBytes 0xC4 flags uid raw)
  | .raw code flags uid raw => fitting (isoBytes code flags uid raw)
  | _ => none

/-- A chip command, which is no request of HOST's (30 R90). -/
def isChipCommand : Instr → Bool
  | .writeRegister _ _ | .writeRegisterOrMask _ _ | .writeRegisterAndMask _ _ | .readRegister _
  | .readEeprom _ _ | .sendData _ | .readData => true
  | _ => false

/-- The class a MEM_READ or MEM_WRITE ends with before any exchange, in the order of 44 R255. -/
def memEarlyEnd (tag : TagRec) (offset len : Nat) : Option Cls :=
  if !geometryFits tag then some .geometryError
  else if !rangeFits tag offset len then some .rangeError
  else if len = 0 then some .ok
  else none

/-- The class a request ends with before any exchange (30 R88; 44 R251, R253, R254); none for one that goes on. -/
def earlyEnd : Instr → Option Cls
  | .memRead tag offset length => memEarlyEnd tag offset.toNat length.toNat
  | .memWrite tag offset data =>
      if 65535 < data.length then some .badRequest else memEarlyEnd tag offset.toNat data.length
  | .eepromRead _ len => if len = 0 then some .badRequest else none
  | .chipIdle | .regWrite _ _ | .regOr _ _ | .regAnd _ _ | .regRead _ => none
  | i => if isChipCommand i || (frameOf i).isSome then none else some .badRequest

/-! ## The replies (43_iso15693_decoder.md, 44_tag_memory.md R256, R257, R260) -/

/-- R220. -/
def plainReply (fl : Byte) (pl : Bytes) : Rsp :=
  if fl = 0xFF then ⟨.noAnswer, none, none, some 0xFF, pl, none, none, none⟩
  else if fl = 0x00 then ⟨.ok, none, none, some 0x00, pl, none, none, none⟩
  else ⟨.tagError, pl.head?, none, some fl, pl, none, none, none⟩

/-- R228, R229. -/
def inventoryReply (fl : Byte) (pl : Bytes) : Rsp :=
  if fl ≠ 0x00 then plainReply fl pl
  else match pl with
    | _ :: b0 :: b1 :: b2 :: b3 :: b4 :: b5 :: b6 :: b7 :: _ =>
        ⟨.ok, none, none, some 0x00, pl, none, some ⟨b0, b1, b2, b3, b4, b5, b6, b7⟩, none⟩
    | _ => ⟨.noAnswer, none, none, some 0x00, pl, none, none, none⟩

/-- How many payload bytes the infoFlags announce (30 R99). -/
def infoLength (f : Byte) : Nat :=
  9 + (if f.getLsbD 0 then 1 else 0) + (if f.getLsbD 1 then 1 else 0) + (if f.getLsbD 2 then 2 else 0)

/-- R230 to R232. The last announced fields stand at the end of the announced bytes. -/
def systemInfoReply (fl : Byte) (pl : Bytes) : Rsp :=
  if fl ≠ 0x00 then plainReply fl pl
  else
    let f := pl.headD 0
    if pl = [] ∨ pl.length < infoLength f then ⟨.shortResponse, none, none, some 0x00, pl, none, none, none⟩
    else
      let afiAt := if f.getLsbD 0 then 10 else 9
      let info : TagInfo :=
        { dsfid := if f.getLsbD 0 then pl.getD 9 0 else 0
          afi := if f.getLsbD 1 then pl.getD afiAt 0 else 0
          numBlocks := if f.getLsbD 2 then (pl.getD (infoLength f - 2) 0).toNat + 1 else 0
          blockSize := if f.getLsbD 2 then (pl.getD (infoLength f - 1) 0).toNat % 32 + 1 else 0 }
      ⟨.ok, none, none, some 0x00, pl, none, none, some info⟩

/-- R233. -/
def multiWriteReply (count : Nat) (fl : Byte) (pl : Bytes) : Rsp :=
  if fl = 0x00 ∧ pl.length ≠ count then ⟨.multiWriteMismatch, none, none, some 0x00, pl, none, none, none⟩
  else plainReply fl pl

/-- 44 R256, R257. -/
def memReadReply (bs offset len : Nat) (fl : Byte) (pl : Bytes) : Rsp :=
  if fl ≠ 0x00 then plainReply fl pl
  else if pl.length < offset % bs + len then ⟨.shortResponse, none, none, some 0x00, pl, none, none, none⟩
  else ⟨.ok, none, none, some 0x00, (pl.drop (offset % bs)).take len, none, none, none⟩

/-- The reply of a request that makes one transceive, by its command (43 R227). -/
def replyOf : Instr → Byte → Bytes → Rsp
  | .inventory, fl, pl => inventoryReply fl pl
  | .getSystemInformation _ _, fl, pl => systemInfoReply fl pl
  | .writeMultipleBlock _ _ _ count _, fl, pl => multiWriteReply count fl pl
  | .isoCmd cmd _ _ (.rangeData _ count _), fl, pl =>
      if cmd = 0x24 then multiWriteReply count fl pl else plainReply fl pl
  | .isoCmd cmd _ _ _, fl, pl =>
      if cmd = 0x01 then inventoryReply fl pl
      else if cmd = 0x2B then systemInfoReply fl pl
      else plainReply fl pl
  | .memRead tag offset length, fl, pl => memReadReply tag.bs offset.toNat length.toNat fl pl
  | _, fl, pl => plainReply fl pl

/-- 44 R260: what a chunk's reply ends the request with; none where the chunk is acknowledged. -/
def chunkReply (b : Byte) (fl : Byte) (pl : Bytes) : Option Rsp :=
  if fl = 0xFF then some ⟨.noAnswer, none, some b, some 0xFF, pl, none, none, none⟩
  else if fl = 0x00 ∧ pl = [] then none
  else some ⟨.writeBlockError, pl.head?, some b, some fl, pl, none, none, none⟩

/-! ## The paths of a transceive (41_transceive.md R162) -/

/-- What the unit hears after its send: no RX start; an RX start after `j` samples without it, but no end; or an end as
well after `k` samples without it, with a count of 0 or with a frame. -/
inductive Heard where
  | silent
  | started (j : Nat)
  | empty (j k : Nat)
  | frame (j k : Nat)
  deriving DecidableEq, Repr

/-- ClearIrq, SetMode(MODE_TRANSCEIVE), the RF_STATUS read. -/
def prepareTx : List Bytes := [clearIrqTx, modeAndTx, modeOrTx, [0x04, 0x1D], fillTx]

/-- The preparation, then SendData of the frame. -/
def startTx (f : Bytes) : List Bytes := prepareTx ++ [[0x09, 0x00] ++ f]

/-- `n` reads of IRQ_STATUS. -/
def irqTx (n : Nat) : List Bytes := (List.replicate n (readTx 0x02)).flatten

/-- The received count that the RX_STATUS read after `j + 1` and `k + 1` samples brings. -/
def countAt (j k : Nat) (s : State) : BitVec 9 := (valueAt (11 + 2 * j + 2 * k) s).extractLsb' 0 9

/-- The exchanges of a path, in order. -/
def Heard.path (f : Bytes) (s : State) : Heard → List Bytes
  | .silent => startTx f ++ irqTx 2 ++ [modeAndTx]
  | .started j => startTx f ++ irqTx (j + 1 + 51) ++ [modeAndTx]
  | .empty j k => startTx f ++ irqTx (j + 1 + (k + 1)) ++ readTx 0x13 ++ [modeAndTx]
  | .frame j k =>
      startTx f ++ irqTx (j + 1 + (k + 1)) ++ readTx 0x13
        ++ [[0x0A, 0x00], List.replicate (countAt j k s).toNat 0xFF] ++ [modeAndTx]

/-- RX start is seen at sample `j + 1` and not before (41 R147, R148). -/
def startsAfter (j : Nat) (s : State) : Prop :=
  j ≤ 1 ∧ (∀ a < j, valueAt (7 + 2 * a) s &&& 0x00004000 = 0) ∧ valueAt (7 + 2 * j) s &&& 0x00004000 ≠ 0

/-- RX complete is seen at sample `k + 1` of phase B and not before (41 R151, R152). -/
def endsAfter (j k : Nat) (s : State) : Prop :=
  k ≤ 50 ∧ (∀ b < k, valueAt (9 + 2 * j + 2 * b) s &&& 0x00000001 = 0)
    ∧ valueAt (9 + 2 * j + 2 * k) s &&& 0x00000001 ≠ 0

/-- The CHIP's coming answers are those of the path: every exchange returns, the RF_STATUS read shows WAIT_TRANSMIT,
and the samples and the count are the path's. -/
def Heard.heard (f : Bytes) (s : State) (h : Heard) : Prop :=
  s.allReturn (h.path f s) = true ∧ (valueAt 4 s).extractLsb' 24 3 = 1 ∧
    match h with
    | .silent => ∀ a < 2, valueAt (7 + 2 * a) s &&& 0x00004000 = 0
    | .started j => startsAfter j s ∧ ∀ b < 51, valueAt (9 + 2 * j + 2 * b) s &&& 0x00000001 = 0
    | .empty j k => startsAfter j s ∧ endsAfter j k s ∧ countAt j k s = 0
    | .frame j k => startsAfter j s ∧ endsAfter j k s ∧ countAt j k s ≠ 0

/-- The frame received on the path `frame j k`. -/
def frameAt (j k : Nat) (s : State) : Bytes :=
  (answerAt (13 + 2 * j + 2 * k) (countAt j k s).toNat s).getD []

/-- What a transceive of `f` does besides what it may change of a tag's memory: its exchanges, its waits, the transceive
registers and the result; the chip commanded to IDLE (log 12). -/
def Heard.ran (f : Bytes) (s : State) (h : Heard) : State :=
  let t := { s.afterExchanges (h.path f s) with txf := f, ts := 1, chip_img := idleImg (preparedImg s.chip_img) }
  match h with
  | .silent => { t with smp := 2, irq := valueAt 9 s, now := s.now + 1, tflags := 0xFF, tpayload := [] }
  | .started j =>
      { t with smp := 51, irq := valueAt (109 + 2 * j) s, now := s.now + j + 50, tflags := 0xFF, tpayload := [] }
  | .empty j k =>
      { t with
        smp := k + 1, irq := valueAt (9 + 2 * j + 2 * k) s, now := s.now + j + k
        rxn := 0, tflags := 0xFF, tpayload := [] }
  | .frame j k =>
      { t with
        smp := k + 1, irq := valueAt (9 + 2 * j + 2 * k) s, now := s.now + j + k
        rxn := countAt j k s, rxb := frameAt j k s
        tflags := (frameAt j k s).headD 0, tpayload := (frameAt j k s).tail }

/-- The state a transceive of `f` leaves; what `f` may change of a tag's memory is unknown (log 11). -/
def Heard.after (f : Bytes) (s : State) (h : Heard) : State :=
  { h.ran f s with tag_mem := knownAfterFrame f s.tag_mem }

/-- The command codes that change no byte of a tag's memory: READ_SINGLE_BLOCK and READ_MULTIPLE_BLOCK (20_memory.md
R73), and those that write and lock nothing (log 11). The writes and locks of AFI and DSFID are not among them (70 R334).
-/
def readingCodes : List Byte := [0x20, 0x23, 0x01, 0x02, 0x25, 0x26, 0x2B, 0x2C]

/-- The instructions that change no byte of a tag's memory: those that send no frame to a tag, and those whose frame
carries one of these codes, whichever way it is asked for. -/
def keepsTagMemory : Instr → Bool
  | .transceive f | .sendData f => (f[1]?).any fun code => decide (code ∈ readingCodes)
  | .isoCmd cmd _ _ _ => decide (cmd ∈ readingCodes)
  | .isoRaw code _ _ _ | .raw code _ _ _ => decide (code ∈ readingCodes)
  | .memWrite _ _ _ | .writeSingleBlock _ _ _ _ | .lockBlock _ _ _ | .writeMultipleBlock _ _ _ _ _ => false
  | .writeAfi _ _ _ | .lockAfi _ _ | .writeDsfid _ _ _ | .lockDsfid _ _ => false
  | .vendorC0 _ _ _ | .vendorC1 _ _ _ | .vendorC2 _ _ _ | .vendorC3 _ _ _ | .vendorC4 _ _ _ => false
  | _ => true

/-- The mapper's registers of a request (44 R252). -/
def State.mapped (tag : TagRec) (offset len : Nat) (s : State) : State :=
  { s with
    m_tag := tag
    m_skip := BitVec.ofNat 5 (offset % tag.bs)
    m_start := BitVec.ofNat 8 (offset / tag.bs)
    m_nblk := blocksOf tag.bs offset len }

/-- The request latched and validated, its transceive still to come. -/
def State.startedBy (i : Instr) (s : State) : State :=
  match i with
  | .memRead tag offset length => { s.mapped tag offset.toNat length.toNat with rq := .op i }
  | _ => { s with rq := .op i }

/-- A request of one transceive, with these answers to come, ends with the reply's class and this state. -/
def requestEnds (h : Heard) : Prop :=
  ∀ (i : Instr) (f : Bytes) (s : State),
    frameOf i = some f → s.req_ready = true → s.rst = [] → h.heard f s →
    exec i s =
      .next ((h.after f (s.startedBy i)).finished
        (replyOf i (h.after f (s.startedBy i)).tflags (h.after f (s.startedBy i)).tpayload))

/-! ## The chunks of a MEM_WRITE (44_tag_memory.md R259) -/

/-- The data padded with zeros to whole blocks. -/
def paddedBytes (bs offset : Nat) (data : Bytes) : Bytes :=
  List.replicate (offset % bs) 0 ++ data
    ++ List.replicate (blocksOf bs offset data.length * bs - (offset % bs + data.length)) 0

/-- Chunk `c` of the padded data. -/
def chunkBytes (bs offset : Nat) (data : Bytes) (c : Nat) : Bytes :=
  ((paddedBytes bs offset data).drop (c * bs)).take bs

/-- WRITE_SINGLE_BLOCK of chunk `c`, addressed, flags 0x22 (44 R250, R259). -/
def chunkTx (tag : TagRec) (offset : Nat) (data : Bytes) (c : Nat) : Bytes :=
  [0x22, 0x21] ++ tag.uid.bytes ++ [BitVec.ofNat 8 (offset / tag.bs + c)] ++ chunkBytes tag.bs offset data c

/-- The state after chunk `c` was acknowledged, its reply heard after `jk.1` and `jk.2` samples. -/
def State.chunkAcked (tag : TagRec) (offset : Nat) (data : Bytes) (c : Nat) (jk : Nat × Nat) (s : State) : State :=
  let t := (Heard.frame jk.1 jk.2).after (chunkTx tag offset data c) s
  { t with
    r_flags := some 0x00
    m_idx := c + 1
    tag_mem := memWrite (blockAddr tag (offset / tag.bs + c)) (chunkBytes tag.bs offset data c) t.tag_mem }

/-- The answers to come acknowledge the chunks from `c` on, one pair of sample counts for each. -/
def chunksAcked (tag : TagRec) (offset : Nat) (data : Bytes) : Nat → List (Nat × Nat) → State → Prop
  | _, [], _ => True
  | c, jk :: jks, s =>
    (Heard.frame jk.1 jk.2).heard (chunkTx tag offset data c) s ∧ frameAt jk.1 jk.2 s = [0x00] ∧
      chunksAcked tag offset data (c + 1) jks (s.chunkAcked tag offset data c jk)

/-- The state after those chunks. -/
def afterChunks (tag : TagRec) (offset : Nat) (data : Bytes) : Nat → List (Nat × Nat) → State → State
  | _, [], s => s
  | c, jk :: jks, s => afterChunks tag offset data (c + 1) jks (s.chunkAcked tag offset data c jk)

/-- A MEM_WRITE latched and validated, its first chunk still to come. -/
def State.writeStarted (tag : TagRec) (offset : Half) (data : Bytes) (s : State) : State :=
  { s.mapped tag offset.toNat data.length with
    rq := .op (.memWrite tag offset data)
    m_idx := 0
    m_wbuf := paddedBytes tag.bs offset.toNat data }

/-- The byte known to stand at address `a` of a tag's memory: byte `a mod bs` of block `a div bs` (20_memory.md R62). -/
def tagByte (tag : TagRec) (a : Nat) (s : State) : Option Byte :=
  memRead (blockAddr tag (a / tag.bs) + a % tag.bs) s.tag_mem

/-- The address is listed for block `b` of the tag (log 11: 32 addresses a block). -/
def inBlock (tag : TagRec) (b a : Nat) : Prop := blockAddr tag b ≤ a ∧ a < blockAddr tag b + 32

/-! ## Bounds (70_reset_and_hazards.md R336) -/

/-- The number of blocks of a MEM_WRITE that passes its checks. -/
def writeBlocks (tag : TagRec) (offset : Half) (data : Bytes) : Nat := blocksOf tag.bs offset.toNat data.length

/-- What a MEM_WRITE leaves of the tags' memories once its first `m` blocks are stored: those hold their chunks, block
`m` is unknown (20_memory.md R72), or as before where no chunk was started, and every other address of every tag reads
as before. -/
def blocksStored (tag : TagRec) (offset : Half) (data : Bytes) (m : Nat) (before after : Memory) : Prop :=
  m ≤ writeBlocks tag offset data ∧
  (∀ c k : Nat, c < m → k < tag.bs →
    memRead (blockAddr tag (offset.toNat / tag.bs + c) + k) after = (chunkBytes tag.bs offset.toNat data c)[k]?) ∧
  (∀ a : Nat, (∀ c : Nat, c ≤ m → c < writeBlocks tag offset data → ¬ inBlock tag (offset.toNat / tag.bs + c) a) →
    memRead a after = memRead a before) ∧
  ((∀ a : Nat, m < writeBlocks tag offset data → inBlock tag (offset.toNat / tag.bs + m) a →
      memRead a after = none) ∨
    (m = 0 ∧ after = before))

/-- The waits a request takes at most. -/
def waitBound (i : Instr) : Nat :=
  if (earlyEnd i).isSome then 0
  else match i with
    | .memWrite tag offset data => 51 * writeBlocks tag offset data
    | .chipIdle | .regWrite _ _ | .regOr _ _ | .regAnd _ _ | .regRead _ | .eepromRead _ _ => 0
    | _ => 51

/-- The exchanges a request makes at most. -/
def exchangeBound (i : Instr) : Nat :=
  if (earlyEnd i).isSome then 0
  else match i with
    | .memWrite tag offset data => 117 * writeBlocks tag offset data
    | .regWrite _ _ | .regOr _ _ | .regAnd _ _ => 1
    | .chipIdle | .regRead _ | .eepromRead _ _ => 2
    | _ => 117

/-! ## What holds between two steps -/

/-- The exchange log obeys the length law of 00_scope.md R13. -/
def lengthLaw (l : List Xchg) : Bool :=
  l.all fun x => decide (1 ≤ x.tx.length) && (match x.rx with
    | some rx => decide (rx.length = x.tx.length)
    | none => true)

/-- No request is in progress, `rsp_valid` and the fault latch agree with `st` (10_state.md R31, R33), and no chip
command waits. -/
def State.settled (s : State) : Bool :=
  (match s.st with
    | .ready => decide (s.fault = .none) && !s.rsp_valid
    | .done => decide (s.fault = .none) && s.rsp_valid
    | .fault => decide (s.fault ≠ .none) && s.rsp_valid
    | _ => false)
    && decide (s.chip_port = none)

/-- A published class is a fault class exactly when that fault is latched (60_exceptions.md R280, R285, R286). -/
def State.classMatchesLatch (s : State) : Bool :=
  !s.rsp_valid ||
    (match s.fault with
      | .none => decide (s.r_cls ≠ .transportError) && decide (s.r_cls ≠ .protocolStateError)
      | .transport => decide (s.r_cls = .transportError)
      | .protocolState => decide (s.r_cls = .protocolStateError))

/-- The chip register image: addresses rising, nothing listed of which nothing is known, no value outside the known
bits (log 12). -/
def chipImgWf (img : List (Nat × ChipReg)) : Bool :=
  decide (rising img) && img.all fun e => decide (e.2.known ≠ 0) && decide (e.2.value &&& ~~~e.2.known = 0)

/-- What holds between two steps, of every state a run reaches. -/
def State.Inv (s : State) : Prop :=
  s.settled = true ∧ s.classMatchesLatch = true ∧ Memory.wf s.tag_mem ∧ chipImgWf s.chip_img = true
    ∧ lengthLaw s.log = true

/-- The UID the session tracks (60_exceptions.md R300). -/
def trackedUid : Session → Option Uid
  | .noTag => none
  | .tagPresent uid _ _ => some uid

/-- The chip's COMMAND field was last commanded to IDLE (10_state.md R38). -/
def State.commandedIdle (s : State) : Bool :=
  decide ((chipReg 0x00 s.chip_img).known &&& 0x00000007 = 0x00000007)
    && decide ((chipReg 0x00 s.chip_img).value &&& 0x00000007 = 0)

end Sys2Proof.Machine
end

