-- ==== Sys2Proof/Certificates/Slice0/Obligations.lean ====
section
/-!
DEFINITION. The statements for the provers, each with the rule of spec/ it formalises. Witnesses that the hypotheses
can be met stand in Tests/Slice0.lean.
-/

section

open Sys2Proof Sys2Proof.Machine

/-! ## Encoding -/

/-- For every well-formed instruction of all three opcode spaces, decoding its encoding gives it back (30_encoding.md
R85 to R95; a HOST_REQ record's bytes are log 1's, the RAW format log 2's). -/
def Obligations.DecodeEncode : Prop :=
  ∀ i : Instr, i.wellFormed = true → decode (encode i).1 (encode i).2 = .ok i

/-- A chip command frame and an ISO request frame have one reading each: what is decoded encodes to the same bytes
(30 R90, R91, R93, R95). -/
def Obligations.FramesHaveOneReading : Prop :=
  ∀ (bs : Bytes) (i : Instr),
    (decode .chipCmd bs = .ok i → encode i = (.chipCmd, bs)) ∧
    (decode .isoReq bs = .ok i → encode i = (.isoReq, bs)) ∧
    (decode .isoRaw bs = .ok i → encode i = (.isoRaw, bs))

/-- Words written out from the encodings of 30 R87, R90, R94 and 95_test_vectors.md decode to their instructions. -/
def Obligations.SpecWordsDecode : Prop :=
  decode .chipCmd [0x00, 0x03, 0xFF, 0xFF, 0x0F, 0x00] = .ok (.writeRegister 0x03 0x000FFFFF) ∧
  decode .chipCmd [0x04, 0x1D] = .ok (.readRegister 0x1D) ∧
  decode .chipCmd [0x09, 0x00, 0x26, 0x01, 0x00] = .ok (.sendData [0x26, 0x01, 0x00]) ∧
  decode .isoReq [0x26, 0x01, 0x00] = .ok .inventory ∧
  decode .isoReq [0x22, 0x23, 0x78, 0x56, 0x34, 0x12, 0x50, 0x01, 0x04, 0xE0, 0x00, 0x01] =
    .ok (.readMultipleBlock 0x22 (some ⟨0x78, 0x56, 0x34, 0x12, 0x50, 0x01, 0x04, 0xE0⟩) 0x00 2) ∧
  decode .hostReq [0x05] = .ok .chipIdle

/-- `u32le` is the inverse of `le32` (00_scope.md R9). -/
def Obligations.RegisterBytesInverse : Prop :=
  (∀ v : Word, u32le (le32 v) = v) ∧
  ∀ b0 b1 b2 b3 : Byte, le32 (u32le [b0, b1, b2, b3]) = [b0, b1, b2, b3]

/-- The flags byte sent: for every command but INVENTORY, and for the raw frame of any code, bit 0x20 says whether a UID
is supplied and every other bit is the request's; INVENTORY by ISO_CMD is sent with 0x26 (30 R93). -/
def Obligations.FlagsByteAssembled : Prop :=
  ∀ (flags : Byte) (uid : Option Uid),
    (∀ (cmd : Byte) (args : IsoArgs), cmd ≠ 0x01 →
      (isoEncode ⟨cmd, flags, uid, args⟩).head? = some (flagsByte flags uid)) ∧
    (∀ (code : Byte) (raw : Bytes), (rawFrame code flags uid raw).head? = some (flagsByte flags uid)) ∧
    ∀ args : IsoArgs, (isoEncode ⟨0x01, flags, uid, args⟩).head? = some 0x26

/-! ## Reset, the invariant, the step -/

/-- What 10_state.md R48 and 70_reset_and_hazards.md R320, R321 state of the machine after reset. -/
def Obligations.ResetState : Prop :=
  State.reset.st = .ready ∧ State.reset.fault = .none ∧ State.reset.now = 0 ∧ State.reset.rsp_valid = false ∧
    State.reset.req_ready = true ∧ State.reset.session = .noTag

/-- The invariant holds after reset. -/
def Obligations.ResetHoldsInvariant : Prop := State.reset.Inv

/-- Every step keeps the invariant: no request left in progress, `rsp_valid` and the latch as `st` says, the published
class a fault class exactly when that fault is latched, tag memory and chip image in canonical form, every logged
exchange under the length law (10 R31, R33; 60 R280, R285, R286; 00 R13). -/
def Obligations.StepKeepsInvariant : Prop :=
  ∀ s t : State, s.Inv → step s = .next t → t.Inv

/-- A step runs the decoded instruction: HOST's next record when the unit can take a request, or the frame at the chip
port where the unit is not in FAULT (log 3); the record or frame is taken from where it stood, and a reset that is not
yet due comes one point nearer (log 9). -/
def Obligations.StepRunsDecoded : Prop :=
  ∀ (s : State) (i : Instr), s.rst.head? ≠ some 0 → i.wellFormed = true →
    (∀ (format : Format) (bytes : Bytes) (rest : List HostMove),
      s.host = .record format bytes :: rest → s.chip_port = none → s.req_ready = true →
      decodeRecord format bytes = .ok i →
      step s = exec i { s with host := rest, rst := (s.rst.head?.map fun n => (n - 1) :: s.rst.tail).getD [] }) ∧
    (∀ bytes : Bytes, s.st ≠ .fault → s.chip_port = some bytes → decode .chipCmd bytes = .ok i →
      step s = exec i { s with
        chip_port := none, rst := (s.rst.head?.map fun n => (n - 1) :: s.rst.tail).getD [] })

/-- A reset that is due is taken instead of the step: READY, no fault, `now` 0, `rsp_valid` 0; no exchange; the tag, the
log and HOST's queue, session and events stay (70 R320, R323). The model's choices in it: the values of the registers that
10 R48 leaves without one are log 5's, the list of delays and the moment a reset is taken are log 9's, and that what is
known of the chip's registers goes when a request was in progress is log 12's. -/
def Obligations.ResetTaken : Prop :=
  ∀ (s : State) (rest : List Nat), s.rst = 0 :: rest →
    step s = .next { State.reset with
      host := s.host, rst := rest, session := s.session, events := s.events, tag_mem := s.tag_mem,
      chip_img := if s.st = .ready ∨ s.st = .done ∨ s.st = .fault then s.chip_img else [],
      chip_in := s.chip_in, nx := s.nx, log := s.log }

/-- In FAULT the unit takes no step, issues no exchange and keeps the faulting request's result, whatever is presented
to it, a chip command too; only a reset ends it (60 R290). That a step there answers a fault when no reset is to come,
and that `exec` answers the same state, are log 10's. -/
def Obligations.FaultStateHolds : Prop :=
  ∀ s : State, s.st = .fault →
    s.req_ready = false ∧ (∀ i : Instr, exec i s = .next s) ∧
    (s.rst = [] → step s = .fault (.latched s.fault)) ∧
    ∀ (n : Nat) (rest : List Nat), s.rst = (n + 1) :: rest → step s = .next { s with rst := n :: rest }

/-- A request presented while `req_ready = 0` is not accepted: nothing changes (10 R23; log 10). -/
def Obligations.RequestHeld : Prop :=
  ∀ (i : Instr) (s : State), isChipCommand i = false → s.req_ready = false → exec i s = .next s

/-! ## The passthrough requests (40_chip_port.md R127 to R132) -/

/-- REG_WRITE: one exchange, then OK; a TransportError if it fails (R128). -/
def Obligations.RegWriteEnds : Prop :=
  ∀ (addr : Byte) (value : Word) (s : State), s.req_ready = true → s.rst = [] →
    exec (.regWrite addr value) s =
      .next ({ s with rq := .op (.regWrite addr value) }.attempt [[0x00, addr] ++ le32 value]
        fun t => { t.finished { cls := .ok } with chip_img := chipRegWrite addr value t.chip_img })

/-- REG_OR and REG_AND (R129, R130). -/
def Obligations.RegMasksEnd : Prop :=
  ∀ (addr : Byte) (mask : Word) (s : State), s.req_ready = true → s.rst = [] →
    exec (.regOr addr mask) s =
      .next ({ s with rq := .op (.regOr addr mask) }.attempt [[0x01, addr] ++ le32 mask]
        fun t => { t.finished { cls := .ok } with chip_img := chipRegOr addr mask t.chip_img }) ∧
    exec (.regAnd addr mask) s =
      .next ({ s with rq := .op (.regAnd addr mask) }.attempt [[0x02, addr] ++ le32 mask]
        fun t => { t.finished { cls := .ok } with chip_img := chipRegAnd addr mask t.chip_img })

/-- REG_READ: the value read, and its four bytes (R131). -/
def Obligations.RegReadEnds : Prop :=
  ∀ (addr : Byte) (s : State), s.req_ready = true → s.rst = [] →
    exec (.regRead addr) s =
      .next ({ s with rq := .op (.regRead addr) }.attempt (readTx addr)
        fun t => t.finished { cls := .ok, val := some (valueAt 1 s), data := le32 (valueAt 1 s) })

/-- EEPROM_READ of 1..255 bytes (R132). -/
def Obligations.EepromReadEnds : Prop :=
  ∀ (addr len : Byte) (s : State), s.req_ready = true → s.rst = [] → len ≠ 0 →
    exec (.eepromRead addr len) s =
      .next ({ s with rq := .op (.eepromRead addr len) }.attempt
        [[0x07, addr, len], List.replicate len.toNat 0xFF]
        fun t => t.finished { cls := .ok, data := (answerAt 1 len.toNat s).getD [] })

/-- CHIP_IDLE: `ClearIrq(); SetMode(MODE_IDLE); finish OK()` (R127). -/
def Obligations.ChipIdleEnds : Prop :=
  ∀ s : State, s.req_ready = true → s.rst = [] →
    exec .chipIdle s =
      .next ({ s with rq := .op .chipIdle }.attempt [clearIrqTx, modeAndTx]
        fun t => { t.finished { cls := .ok } with
          chip_img := idleImg (chipRegWrite 0x03 0x000FFFFF t.chip_img) })

/-- CHIP_IDLE is idempotent: after it the chip was commanded to IDLE, and a second one, when both end OK, sends the same
two exchanges and changes nothing more of what is known of the chip (R127; 20_memory.md R74). -/
def Obligations.ChipIdleTwice : Prop :=
  ∀ s t u : State, s.req_ready = true → s.rst = [] → exec .chipIdle s = .next t → t.r_cls = .ok →
    exec .chipIdle t = .next u → u.r_cls = .ok →
    t.commandedIdle = true ∧ u.commandedIdle = true ∧
      (∀ a : Byte, chipReg a u.chip_img = chipReg a t.chip_img) ∧ u.tag_mem = s.tag_mem ∧
      (u.log.drop t.log.length).map Xchg.tx = [clearIrqTx, modeAndTx] ∧
      (t.log.drop s.log.length).map Xchg.tx = [clearIrqTx, modeAndTx]

/-! ## The chip commands alone (log 3; their frames and effects are 40 R117 to R123) -/

/-- WRITE_REGISTER, WRITE_REGISTER_OR_MASK and WRITE_REGISTER_AND_MASK run alone, outside FAULT; what they leave known
of the register is log 12's. -/
def Obligations.ChipWritesRun : Prop :=
  ∀ (addr : Byte) (v : Word) (s : State), s.rst = [] → s.st ≠ .fault →
    exec (.writeRegister addr v) s =
      .next (s.attempt [[0x00, addr] ++ le32 v] fun t => { t with chip_img := chipRegWrite addr v t.chip_img }) ∧
    exec (.writeRegisterOrMask addr v) s =
      .next (s.attempt [[0x01, addr] ++ le32 v] fun t => { t with chip_img := chipRegOr addr v t.chip_img }) ∧
    exec (.writeRegisterAndMask addr v) s =
      .next (s.attempt [[0x02, addr] ++ le32 v] fun t => { t with chip_img := chipRegAnd addr v t.chip_img })

/-- READ_REGISTER, READ_EEPROM and READ_DATA run alone, outside FAULT: the bytes read stand in `ret`, and nothing else
but the exchange log changes. With nothing to read there is no fill exchange (log 22). -/
def Obligations.ChipReadsRun : Prop :=
  ∀ (addr len : Byte) (s : State), s.rst = [] → s.st ≠ .fault →
    exec (.readRegister addr) s = .next (s.attempt (readTx addr) id) ∧
    (len ≠ 0 → exec (.readEeprom addr len) s =
      .next (s.attempt [[0x07, addr, len], List.replicate len.toNat 0xFF] id)) ∧
    (len = 0 → exec (.readEeprom addr len) s =
      .next (s.attempt [[0x07, addr, len]] fun t => { t with ret := [] })) ∧
    (s.rxn ≠ 0 → exec .readData s =
      .next (s.attempt [[0x0A, 0x00], List.replicate s.rxn.toNat 0xFF] id)) ∧
    (s.rxn = 0 → exec .readData s = .next (s.attempt [[0x0A, 0x00]] fun t => { t with ret := [] }))

/-- SEND_DATA run alone, outside FAULT: one exchange of the header `[09 00]` and the frame, of any length (40 R122 gives
1 to 260 bytes; that a frame of 0 or over 260 bytes is sent as well is log 22's). What the frame may change of a tag's
memory is unknown from then on, whether or not the exchange returns (20_memory.md R72; log 11); nothing else changes but
the exchange log and `ret`. -/
def Obligations.ChipSendRuns : Prop :=
  ∀ (frame : Bytes) (s : State), s.rst = [] → s.st ≠ .fault →
    exec (.sendData frame) s =
      .next ({ s with tag_mem := knownAfterFrame frame s.tag_mem }.attempt [[0x09, 0x00] ++ frame] id)

/-- What the unit's register commands leave known of the chip's registers (log 12), for every register and every image:
`reg[a] <- v`, `reg[a] <- reg[a] | v` and `reg[a] <- reg[a] & v` (40 R117, R118, R119). If `x` agrees with what is known
of register `a`, the value the command gives it agrees with what is known after; the bits the command fixes are known
from then on; every other register is known as before. -/
def Obligations.ChipRegistersCommanded : Prop :=
  ∀ (a : Byte) (v x : Word) (img : List (Nat × ChipReg)),
    let agrees : Word → ChipReg → Prop := fun y r => y &&& r.known = r.value &&& r.known
    chipReg a (chipRegWrite a v img) = ⟨0xFFFFFFFF, v⟩ ∧
    (chipReg a (chipRegOr a v img)).known = (chipReg a img).known ||| v ∧
    (chipReg a (chipRegAnd a v img)).known = (chipReg a img).known ||| ~~~v ∧
    (agrees x (chipReg a img) →
      agrees (x ||| v) (chipReg a (chipRegOr a v img)) ∧ agrees (x &&& v) (chipReg a (chipRegAnd a v img))) ∧
    ∀ b : Byte, b ≠ a →
      chipReg b (chipRegWrite a v img) = chipReg b img ∧ chipReg b (chipRegOr a v img) = chipReg b img ∧
        chipReg b (chipRegAnd a v img) = chipReg b img

/-! ## Requests that end before any exchange -/

/-- Validation: BAD_REQUEST, GEOMETRY_ERROR, RANGE_ERROR and the empty requests of the mapper end without an exchange
and write nothing else (30 R88; 44 R251, R253, R254, R255). -/
def Obligations.EarlyEnds : Prop :=
  ∀ (i : Instr) (cls : Cls) (s : State), earlyEnd i = some cls → s.req_ready = true → s.rst = [] →
    exec i s = .next ({ s with rq := .op i }.finished { cls := cls })

/-- A record that is no instruction ends with BAD_REQUEST and no exchange: an op outside 30 R87's table (R101), operand
bytes missing or left over (log 19). -/
def Obligations.IllegalRecordEnds : Prop :=
  ∀ (s : State) (format : Format) (bytes : Bytes) (rest : List HostMove) (e : DecodeError),
    s.host = .record format bytes :: rest → s.chip_port = none → s.req_ready = true → s.rst = [] →
    decodeRecord format bytes = .error e →
    step s = .next ({ s with host := rest, rq := .illegal bytes }.finished { cls := .badRequest })

/-- An op byte outside R87's table is not decoded (30 R101). -/
def Obligations.UnknownOpRefused : Prop :=
  ∀ (op : Byte) (bs : Bytes),
    op ∉ [0x01, 0x02, 0x03, 0x04, 0x05, 0x06, 0x10, 0x11, 0x12, 0x13, 0x14] →
    decodeRecord .hostReq (op :: bs) = .error (.unknownOp op)

/-! ## The requests of one transceive: the four ways it returns (41_transceive.md R162) -/

/-- A received frame: its first byte is the responseFlags, the rest the payload, and the request's decoder gives the
class (41 R154 to R156; 42 R180 to R204; 43 R220 to R238; 44 R256, R257). -/
def Obligations.FrameReceived : Prop := ∀ j k : Nat, requestEnds (.frame j k)

/-- No RX start at either sample of phase A: the no-answer result (41 R148, R150). -/
def Obligations.NoRxStart : Prop := requestEnds .silent

/-- RX start, but no RX complete at any of phase B's 51 samples: the no-answer result (41 R152, R153). -/
def Obligations.NoRxComplete : Prop := ∀ j : Nat, requestEnds (.started j)

/-- A received count of 0: the no-answer result (41 R154). -/
def Obligations.EmptyResponse : Prop := ∀ j k : Nat, requestEnds (.empty j k)

/-- These four are all: where the exchanges return and the RF_STATUS read shows WAIT_TRANSMIT, the answers to come are
those of one of the paths (41 R157, R162). -/
def Obligations.PathsCover : Prop :=
  ∀ (f : Bytes) (s : State), 117 ≤ s.chip_in.length → (∀ a ∈ s.chip_in.take 117, a ≠ .fails) →
    (valueAt 4 s).extractLsb' 24 3 = 1 → ∃ h : Heard, h.heard f s

/-- The WAIT_TRANSMIT check fails: no frame is sent, one SetMode(MODE_IDLE), then PROTOCOL_STATE_ERROR with
`r_data = [ts]`; if that exchange fails, TRANSPORT_ERROR in its place (41 R144; 60 R286, R287, R289). That the blocks the
frame names are unknown although it was not sent is log 11's choice, the chip image log 12's. -/
def Obligations.NotWaitTransmit : Prop :=
  ∀ (i : Instr) (f : Bytes) (s : State), frameOf i = some f → s.req_ready = true → s.rst = [] →
    s.allReturn prepareTx = true → (valueAt 4 s).extractLsb' 24 3 ≠ (1 : BitVec 3) →
    exec i s = .next ({ s.startedBy i with
        txf := f, ts := (valueAt 4 s).extractLsb' 24 3, tag_mem := knownAfterFrame f s.tag_mem }.attempt
      (prepareTx ++ [modeAndTx])
      fun t => { t.faulted .protocolState
          { cls := .protocolStateError, data := [((valueAt 4 s).extractLsb' 24 3).setWidth 8] } with
        chip_img := idleImg (preparedImg t.chip_img) })

/-- An ISO command's mnemonic is ISO_CMD with `cmd` set to its code, and RAW is ISO_RAW: it does what that request does,
and only the latched request differs (30 R94, R102, R111; that a mnemonic may be presented by its frame is log 2's). -/
def Obligations.MnemonicsAreIsoCmd : Prop :=
  (∀ (i : Instr) (cmd flags : Byte) (uid : Option Uid) (args : IsoArgs) (s : State),
    mnemonicOf i = some (cmd, flags, uid, args) → s.req_ready = true → s.rst = [] →
    ∃ t : State, exec i s = .next t ∧
      exec (.isoCmd cmd flags uid args) s = .next { t with rq := .op (.isoCmd cmd flags uid args) }) ∧
  ∀ (code flags : Byte) (uid : Option Uid) (raw : Bytes) (s : State), s.req_ready = true → s.rst = [] →
    ∃ t : State, exec (.raw code flags uid raw) s = .next t ∧
      exec (.isoRaw code flags uid raw) s = .next { t with rq := .op (.isoRaw code flags uid raw) }

/-! ## What every request does -/

/-- Every request ends, within the waits and the exchanges of 70_reset_and_hazards.md R336: the unit has no unbounded
loop. -/
def Obligations.EveryRequestEnds : Prop :=
  ∀ (i : Instr) (s : State), isChipCommand i = false → s.req_ready = true →
    ∃ (t : State) (l : List Xchg), exec i s = .next t ∧ (t.st = .ready ∨ t.st = .done ∨ t.st = .fault) ∧
      t.log = s.log ++ l ∧ l.length ≤ exchangeBound i ∧ t.now ≤ s.now + waitBound i

/-- No SendData exchange is issued unless the RF_STATUS read of the same transceive, made after its
SetMode(MODE_TRANSCEIVE), returned `ts = 1` (41 R145). -/
def Obligations.SendNeedsWaitTransmit : Prop :=
  ∀ (i : Instr) (s t : State), isChipCommand i = false → s.req_ready = true → exec i s = .next t →
    ∃ l : List Xchg, t.log = s.log ++ l ∧
      ∀ (before after : List Xchg) (x : Xchg), l = before ++ x :: after → isSend x = true →
        ∃ (earlier : List Xchg) (r1 r2 r3 r4 r5 : Bytes),
          before = earlier ++ [⟨clearIrqTx, some r1⟩, ⟨modeAndTx, some r2⟩, ⟨modeOrTx, some r3⟩,
            ⟨[0x04, 0x1D], some r4⟩, ⟨fillTx, some r5⟩] ∧
          (u32le r5).extractLsb' 24 3 = (1 : BitVec 3)

/-- The cleanup contract: the log of an RF request is whole transceives, each with one switch to TRANSCEIVE and one
return to IDLE, its last exchange; then, only where an exchange failed, the part of one transceive that this exchange
ends: it begins with that transceive's ClearIrq and the mode switch and holds no second one, and a return to IDLE in it
is the exchange that failed. Without a failure the chip was last commanded to IDLE; after one nothing is known of it (41
R159; what is known of the chip is log 12's). -/
def Obligations.CleanupContract : Prop :=
  ∀ (i : Instr) (s t : State), isChipCommand i = false → waitBound i ≠ 0 → s.req_ready = true → s.rst = [] →
    exec i s = .next t →
    ∃ (whole : List (List Xchg)) (part : List Xchg), t.log = s.log ++ whole.flatten ++ part ∧
      (∀ g ∈ whole, (∀ x ∈ g, x.rx ≠ none) ∧ (g.map Xchg.tx).take 3 = [clearIrqTx, modeAndTx, modeOrTx] ∧
        (g.map Xchg.tx).count modeOrTx = 1 ∧ (g.map Xchg.tx).count modeAndTx = 2 ∧
        (g.map Xchg.tx).getLast? = some modeAndTx) ∧
      (part = [] ∧ t.commandedIdle = true ∨
        ∃ (done : List Xchg) (tx : Bytes), part = done ++ [⟨tx, none⟩] ∧ (∀ x ∈ done, x.rx ≠ none) ∧
          (part.map Xchg.tx).take 3 <+: [clearIrqTx, modeAndTx, modeOrTx] ∧
          (part.map Xchg.tx).count clearIrqTx = 1 ∧ (part.map Xchg.tx).count modeOrTx ≤ 1 ∧
          (done.map Xchg.tx).count modeAndTx ≤ 1 ∧ t.fault = .transport ∧ t.chip_img = [])

/-- What the faults record. TRANSPORT_ERROR: the failed exchange is the last, nothing but the class is published.
PROTOCOL_STATE_ERROR: `r_data = [ts]`, the code the RF_STATUS read brought, after a completed return to IDLE. For both
the other response registers are none, the fault is latched, the unit is in FAULT and `rq` keeps the request (60 R285,
R286, R287; 40 R116). -/
def Obligations.FaultsRecorded : Prop :=
  ∀ (i : Instr) (s t : State), isChipCommand i = false → s.req_ready = true → exec i s = .next t →
    ∃ l : List Xchg, t.log = s.log ++ l ∧
      ((∃ x ∈ l, x.rx = none) ↔ t.fault = .transport) ∧
      (t.fault = .transport →
        (∃ (done : List Xchg) (tx : Bytes), l = done ++ [⟨tx, none⟩] ∧ ∀ x ∈ done, x.rx ≠ none) ∧
        t.r_cls = .transportError ∧ t.r_data = []) ∧
      (t.fault = .protocolState →
        (∃ (done : List Xchg) (rx4 rx5 rx6 : Bytes),
          l = done ++ [⟨[0x04, 0x1D], some rx4⟩, ⟨fillTx, some rx5⟩, ⟨modeAndTx, some rx6⟩] ∧
          t.ts = (u32le rx5).extractLsb' 24 3) ∧
        t.ts ≠ 1 ∧ t.r_cls = .protocolStateError ∧ t.r_data = [t.ts.setWidth 8]) ∧
      (t.fault ≠ .none →
        t.st = .fault ∧ t.rsp_valid = true ∧ t.rq = .op i ∧ t.r_code = none ∧ t.r_blk = none ∧ t.r_flags = none ∧
          t.r_val = none ∧ t.r_uid = none ∧ t.r_info = none)

/-- A request abandoned by reset publishes no result; the exchanges it completed stand, and HOST's side and the tag are
not reset (70 R322, R323). What stays known of the tag: all of it, but for the frame's blocks if the request's transceive
had started, and of a MEM_WRITE its acknowledged blocks hold their chunks (20_memory.md R72; log 11). The model's choices
besides: the reset values of the registers 10 R48 leaves without one (log 5), the list of delays (log 9), and that nothing
is known of the chip's registers (log 12). -/
def Obligations.ResetDuringRequest : Prop :=
  ∀ (i : Instr) (s t : State), isChipCommand i = false → s.req_ready = true → exec i s = .next t →
    t.st = .ready →
    ∃ (l : List Xchg) (mem : Memory), s.rst ≠ [] ∧ (∀ x ∈ l, x.rx ≠ none) ∧
      (keepsTagMemory i = true → mem = s.tag_mem) ∧
      (∀ f : Bytes, frameOf i = some f → mem = s.tag_mem ∨ mem = knownAfterFrame f s.tag_mem) ∧
      (∀ (tag : TagRec) (offset : Half) (data : Bytes), i = .memWrite tag offset data →
        ∃ m : Nat, blocksStored tag offset data m s.tag_mem mem) ∧
      (frameOf i = none → (∀ (tag : TagRec) (offset : Half) (data : Bytes), i ≠ .memWrite tag offset data) →
        mem = s.tag_mem) ∧
      t = { State.reset with
        host := s.host, rst := s.rst.tail, session := s.session, events := s.events, tag_mem := mem,
        chip_in := s.chip_in.drop l.length, nx := s.nx + l.length, log := s.log ++ l }

/-- No instruction changes HOST's queue, its session or its events (10 R46; 70 R323), and none takes back an exchange. -/
def Obligations.HostSideKept : Prop :=
  ∀ (i : Instr) (s t : State), exec i s = .next t →
    t.host = s.host ∧ t.session = s.session ∧ t.events = s.events ∧ s.log <+: t.log

/-- Only the COMMAND field of SYSTEM_CONFIG and the IRQ flags are touched by an RF request: what is known of every other
register, and of the other bits of SYSTEM_CONFIG, stays, unless an exchange fails (40 R126; 10 R38; log 12). -/
def Obligations.SetModeKeepsOtherBits : Prop :=
  ∀ (i : Instr) (s t : State), isChipCommand i = false → waitBound i ≠ 0 → s.req_ready = true → s.rst = [] →
    exec i s = .next t → t.fault ≠ .transport →
    (∀ a : Byte, a ≠ 0x00 → a ≠ 0x03 → chipReg a t.chip_img = chipReg a s.chip_img) ∧
      (chipReg 0x00 t.chip_img).known &&& 0xFFFFFFF8 = (chipReg 0x00 s.chip_img).known &&& 0xFFFFFFF8 ∧
      (chipReg 0x00 t.chip_img).value &&& 0xFFFFFFF8 = (chipReg 0x00 s.chip_img).value &&& 0xFFFFFFF8

/-! ## Tag memory (44_tag_memory.md) -/

/-- The instructions that store nothing to the tag leave every byte known of any tag's memory as it was: those that send
no frame, and those whose frame carries a reading code, by ISO_CMD, a mnemonic, ISO_RAW, RAW, TRANSCEIVE or SEND_DATA
alone (20_memory.md R73; which codes besides READ_SINGLE_BLOCK and READ_MULTIPLE_BLOCK is log 11's). -/
def Obligations.TagMemoryKept : Prop :=
  ∀ (i : Instr) (s t : State), keepsTagMemory i = true → exec i s = .next t →
    ∀ a : Nat, memRead a t.tag_mem = memRead a s.tag_mem

/-- What a frame that is sent leaves known of the tags' memories (log 11). It gives no byte a value. A frame with a reading
code leaves every byte (20_memory.md R73). WRITE_SINGLE_BLOCK and LOCK_BLOCK leave that one block unknown, and
WRITE_MULTIPLE_BLOCK its blocks, of the tag addressed (R72, 93 A5) or, unaddressed, of every tag; every other byte stays
known. A write or lock of AFI or DSFID leaves all of the addressed tag unknown, or of every tag (70 R334). A frame of any
other code leaves nothing known. LOCK_BLOCK, WRITE_MULTIPLE_BLOCK, the extent of R334's effect and the unaddressed forms
are log 11's. -/
def Obligations.FrameLeavesKnown : Prop :=
  ∀ (m : Memory) (a : Nat),
    (∀ f : Bytes, memRead a (knownAfterFrame f m) = memRead a m ∨ memRead a (knownAfterFrame f m) = none) ∧
    (∀ (fl code : Byte) (rest : Bytes), code ∈ readingCodes →
      memRead a (knownAfterFrame (fl :: code :: rest) m) = memRead a m) ∧
    (∀ (code flags : Byte) (uid : Uid) (b : Byte) (rest : Bytes), code = 0x21 ∨ code = 0x22 →
      memRead a (knownAfterFrame (isoBytes code flags (some uid) (b :: rest)) m) =
        if slotAddr uid b.toNat ≤ a ∧ a < slotAddr uid b.toNat + 32 then none else memRead a m) ∧
    (∀ (flags : Byte) (uid : Uid) (b c : Byte) (rest : Bytes), b.toNat + c.toNat < 256 →
      memRead a (knownAfterFrame (isoBytes 0x24 flags (some uid) (b :: c :: rest)) m) =
        if slotAddr uid b.toNat ≤ a ∧ a < slotAddr uid (b.toNat + c.toNat + 1) then none else memRead a m) ∧
    (∀ (code flags b : Byte) (rest : Bytes), code = 0x21 ∨ code = 0x22 →
      memRead a (knownAfterFrame (isoBytes code flags none (b :: rest)) m) =
        if a % 8192 / 32 = b.toNat then none else memRead a m) ∧
    (∀ (flags b c : Byte) (rest : Bytes),
      memRead a (knownAfterFrame (isoBytes 0x24 flags none (b :: c :: rest)) m) =
        if b.toNat ≤ a % 8192 / 32 ∧ a % 8192 / 32 ≤ b.toNat + c.toNat then none else memRead a m) ∧
    (∀ (code flags : Byte) (uid : Uid) (rest : Bytes), code ∈ [0x27, 0x28, 0x29, 0x2A] →
      memRead a (knownAfterFrame (isoBytes code flags (some uid) rest) m) =
        (if slotAddr uid 0 ≤ a ∧ a < slotAddr uid 256 then none else memRead a m) ∧
      memRead a (knownAfterFrame (isoBytes code flags none rest) m) = none) ∧
    ∀ (fl code : Byte) (rest : Bytes), code ∉ readingCodes ++ [0x21, 0x22, 0x24, 0x27, 0x28, 0x29, 0x2A] →
      memRead a (knownAfterFrame (fl :: code :: rest) m) = none

/-- The mapper's arithmetic: the source's formulas, and the covered blocks lie inside the tag and cover the byte range
(R252, R253, R258). -/
def Obligations.MapperCovers : Prop :=
  ∀ (tag : TagRec) (offset len : Nat), memReaches tag offset len = true →
    let p := mapPlan tag.bs offset len
    p.skip = offset % tag.bs ∧ p.startBlock = (offset - p.skip) / tag.bs ∧
      p.totalBytes = roundUp (len + p.skip) tag.bs ∧ p.nblk = p.totalBytes / tag.bs ∧ 1 ≤ p.nblk ∧ p.nblk ≤ 256 ∧
      p.startBlock + p.nblk ≤ tag.nb ∧ p.startBlock * tag.bs ≤ offset ∧
      offset + len ≤ (p.startBlock + p.nblk) * tag.bs

/-- A MEM_WRITE whose every chunk is acknowledged: one transceive per block, in ascending order, then OK (R259, R260,
R265). What is known of the tag is log 11's, the chip image log 12's. -/
def Obligations.MemWriteCompletes : Prop :=
  ∀ (tag : TagRec) (offset : Half) (data : Bytes) (jks : List (Nat × Nat)) (s : State),
    memReaches tag offset.toNat data.length = true → s.req_ready = true → s.rst = [] →
    jks.length = writeBlocks tag offset data →
    chunksAcked tag offset.toNat data 0 jks (s.writeStarted tag offset data) →
    exec (.memWrite tag offset data) s =
      .next ((afterChunks tag offset.toNat data 0 jks (s.writeStarted tag offset data)).finished
        { cls := .ok, flags := some 0x00 })

/-- A chunk that is not acknowledged ends a MEM_WRITE: the class of R260 with the absolute block index, and no further
chunk is sent (R260, R261). What is known of the tag is log 11's, the chip image log 12's. -/
def Obligations.MemWriteChunkFails : Prop :=
  ∀ (tag : TagRec) (offset : Half) (data : Bytes) (jks : List (Nat × Nat)) (h : Heard) (r : Rsp) (s : State),
    memReaches tag offset.toNat data.length = true → s.req_ready = true → s.rst = [] →
    jks.length < writeBlocks tag offset data →
    chunksAcked tag offset.toNat data 0 jks (s.writeStarted tag offset data) →
    let u := afterChunks tag offset.toNat data 0 jks (s.writeStarted tag offset data)
    let f := chunkTx tag offset.toNat data jks.length
    h.heard f u →
    chunkReply (BitVec.ofNat 8 (offset.toNat / tag.bs + jks.length)) (h.after f u).tflags (h.after f u).tpayload
      = some r →
    exec (.memWrite tag offset data) s = .next ((h.after f u).finished r)

/-- The bytes a MEM_WRITE stores, however it ends: the first `m` blocks it covers hold their chunks, block `m` is as
before or unknown, and no other byte of any tag changes. After OK all blocks hold their chunks; after a failure at block
`b` those before `b` do, and `b` is unknown (R262; 20_memory.md R72; 70 R322; what is known of a tag is log 11's). -/
def Obligations.MemWriteStores : Prop :=
  ∀ (tag : TagRec) (offset : Half) (data : Bytes) (s t : State),
    memReaches tag offset.toNat data.length = true → s.req_ready = true →
    exec (.memWrite tag offset data) s = .next t →
    ∃ m : Nat, blocksStored tag offset data m s.tag_mem t.tag_mem ∧
      (t.st = .done → t.r_cls = .ok → m = writeBlocks tag offset data) ∧
      (∀ b : Byte, t.st = .done → t.r_blk = some b →
        b.toNat = offset.toNat / tag.bs + m ∧ m < writeBlocks tag offset data)

/-- The written bytes themselves: after a MEM_WRITE that ended OK the tag holds `data` from `offset` on, and zeros in the
rest of the first and the last block (R262, R263). -/
def Obligations.MemWritePads : Prop :=
  ∀ (tag : TagRec) (offset : Half) (data : Bytes) (s t : State),
    memReaches tag offset.toNat data.length = true → s.req_ready = true →
    exec (.memWrite tag offset data) s = .next t → t.st = .done → t.r_cls = .ok →
    ∀ a : Nat, offset.toNat / tag.bs * tag.bs ≤ a →
      a < (offset.toNat / tag.bs + writeBlocks tag offset data) * tag.bs →
      tagByte tag a t =
        some (if offset.toNat ≤ a ∧ a < offset.toNat + data.length then data.getD (a - offset.toNat) 0 else 0)

/-- The round trip: after a MEM_WRITE that ended OK, a MEM_READ of the same range whose reply carries the tag's bytes
returns the data (R264, R258). -/
def Obligations.MemRoundTrip : Prop :=
  ∀ (tag : TagRec) (offset : Half) (data pl : Bytes) (j k : Nat) (s t : State),
    memReaches tag offset.toNat data.length = true → s.req_ready = true →
    exec (.memWrite tag offset data) s = .next t → t.st = .done → t.r_cls = .ok → t.rst = [] →
    (Heard.frame j k).heard (memReadBytes tag offset.toNat data.length) t → frameAt j k t = 0x00 :: pl →
    offset.toNat % tag.bs + data.length ≤ pl.length →
    (∀ (x : Nat) (b : Byte), x < pl.length →
      tagByte tag (offset.toNat / tag.bs * tag.bs + x) t = some b → pl[x]? = some b) →
    ∃ u : State, exec (.memRead tag offset (BitVec.ofNat 16 data.length)) t = .next u ∧ u.st = .done ∧
      u.r_cls = .ok ∧ u.r_data = data

/-! ## Replies and messages (43_iso15693_decoder.md) -/

/-- The generic arbitration: the three tests in this order (R220 to R223). -/
def Obligations.Arbitration : Prop :=
  ∀ (fl : Byte) (pl : Bytes),
    (arbitrate fl pl).flags = some fl ∧ (arbitrate fl pl).data = pl ∧
    (fl = 0xFF → (arbitrate fl pl).cls = .noAnswer ∧ (arbitrate fl pl).code = none) ∧
    (fl ≠ 0xFF → fl ≠ 0x00 → (arbitrate fl pl).cls = .tagError ∧
      (∀ c rest, pl = c :: rest → (arbitrate fl pl).code = some c) ∧ (pl = [] → (arbitrate fl pl).code = none)) ∧
    (fl = 0x00 → (arbitrate fl pl).cls = .ok ∧ (arbitrate fl pl).code = none)

/-- A short INVENTORY reply is NO_ANSWER even with flags 0, for the mnemonic and for ISO_CMD (R229). -/
def Obligations.ShortInventory : Prop :=
  ∀ (flags : Byte) (uid : Option Uid) (args : IsoArgs) (pl : Bytes), pl.length < 9 →
    ∀ i ∈ [Instr.inventory, .isoCmd 0x01 flags uid args],
      let r := decodeReply i 0x00 pl
      r.cls = .noAnswer ∧ r.uid = none ∧ r.code = none ∧ r.flags = some 0x00 ∧ r.data = pl

/-- WRITE_MULTIPLE_BLOCK, by its mnemonic or by ISO_CMD, succeeds exactly when the payload is as long as the block
count; NO_ANSWER and TAG_ERROR are the arbitration's (R233). -/
def Obligations.MultiWriteReply : Prop :=
  ∀ (flags : Byte) (uid : Option Uid) (first : Byte) (count : Nat) (data : Bytes) (fl : Byte) (pl : Bytes),
    ∀ i ∈ [Instr.writeMultipleBlock flags uid first count data, .isoCmd 0x24 flags uid (.rangeData first count data)],
      (fl = 0x00 → (decodeReply i fl pl).cls = (if pl.length = count then .ok else .multiWriteMismatch)) ∧
        (fl = 0xFF → decodeReply i fl pl = arbitrate fl pl ∧ (decodeReply i fl pl).cls = .noAnswer) ∧
        (fl ≠ 0x00 → fl ≠ 0xFF →
          decodeReply i fl pl = arbitrate fl pl ∧ (decodeReply i fl pl).cls = .tagError)

/-- GET_SYSTEM_INFORMATION, by its mnemonic or by ISO_CMD: OK with the record exactly when the payload holds every field
its infoFlags announce, and otherwise, the empty payload too, SHORT_RESPONSE without one. An announced field has its byte's
value, one not announced is 0; the announced block size is 1..32 and the number of blocks 1..256. Other flags are the
arbitration's (R230 to R232). -/
def Obligations.SystemInfoReply : Prop :=
  ∀ (flags : Byte) (uid : Option Uid) (args : IsoArgs),
    ∀ i ∈ [Instr.getSystemInformation flags uid, .isoCmd 0x2B flags uid args],
      (∀ (fl : Byte) (pl : Bytes), fl ≠ 0x00 → decodeReply i fl pl = arbitrate fl pl) ∧
      (∀ pl : Bytes, (decodeReply i 0x00 pl).flags = some 0x00 ∧ (decodeReply i 0x00 pl).data = pl ∧
        (decodeReply i 0x00 pl).uid = none) ∧
      ((decodeReply i 0x00 []).cls = .shortResponse ∧ (decodeReply i 0x00 []).info = none) ∧
      ∀ (f : Byte) (rest : Bytes),
        let pl := f :: rest
        let r := decodeReply i 0x00 pl
        let afiAt := if f.getLsbD 0 then 10 else 9
        let sizeAt := if f.getLsbD 1 then afiAt + 1 else afiAt
        (pl.length < infoLength f → r.cls = .shortResponse ∧ r.info = none) ∧
        (infoLength f ≤ pl.length → r.cls = .ok ∧
          ∃ info : TagInfo, r.info = some info ∧
            (f.getLsbD 0 = true → pl[9]? = some info.dsfid) ∧ (f.getLsbD 0 = false → info.dsfid = 0) ∧
            (f.getLsbD 1 = true → pl[afiAt]? = some info.afi) ∧ (f.getLsbD 1 = false → info.afi = 0) ∧
            (f.getLsbD 2 = true → ∃ n b : Byte, pl[sizeAt]? = some n ∧ pl[sizeAt + 1]? = some b ∧
              info.numBlocks = n.toNat + 1 ∧ info.blockSize = b.toNat % 32 + 1 ∧ 1 ≤ info.numBlocks ∧
              info.numBlocks ≤ 256 ∧ 1 ≤ info.blockSize ∧ info.blockSize ≤ 32) ∧
            (f.getLsbD 2 = false → info.numBlocks = 0 ∧ info.blockSize = 0))

/-- The message of a result, for every class (R226); the nine texts of the table (R224), and `0x` and two upper-case
hexadecimal digits for every other code (R225). -/
def Obligations.Messages : Prop :=
  (∀ code blk : Option Byte,
    msg .ok code blk = "" ∧
    (∀ c : Byte, msg .tagError (some c) blk = errorText c) ∧
    msg .tagError none blk = "no error code" ∧
    (∀ b c : Byte, msg .writeBlockError (some c) (some b) = "block " ++ toString b.toNat ++ ": " ++ errorText c) ∧
    (∀ b : Byte, msg .writeBlockError none (some b) = "block " ++ toString b.toNat ++ ": no error code") ∧
    msg .noAnswer code blk = "NO_ANSWER" ∧ msg .protocolStateError code blk = "PROTOCOL_STATE_ERROR" ∧
    msg .transportError code blk = "TRANSPORT_ERROR" ∧ msg .shortResponse code blk = "SHORT_RESPONSE" ∧
    msg .multiWriteMismatch code blk = "MULTI_WRITE_MISMATCH" ∧ msg .geometryError code blk = "GEOMETRY_ERROR" ∧
    msg .rangeError code blk = "RANGE_ERROR" ∧ msg .badRequest code blk = "BAD_REQUEST") ∧
  errorText 0x01 = "The command is not supported, i.e. the request code is not recognised." ∧
  errorText 0x02 = "The command is not recognised, for example: a format error occurred." ∧
  errorText 0x03 = "The command option is not supported." ∧
  errorText 0x0F = "Error with no information given or a specific error code is not supported." ∧
  errorText 0x10 = "The specified block is not available (doesn't exist)." ∧
  errorText 0x11 = "The specified block is already locked and thus cannot be locked again." ∧
  errorText 0x12 = "The specified block is locked and its content cannot be changed." ∧
  errorText 0x13 = "The specified block was not successfully programmed." ∧
  errorText 0x14 = "The specified block was not successfully locked." ∧
  ∀ c : Byte, c ∉ [0x01, 0x02, 0x03, 0x0F, 0x10, 0x11, 0x12, 0x13, 0x14] →
    ∃ hi lo : Char, "0123456789ABCDEF".toList[c.toNat / 16]? = some hi ∧
      "0123456789ABCDEF".toList[c.toNat % 16]? = some lo ∧ (errorText c).toList = ['0', 'x', hi, lo]

/-! ## The session (60_exceptions.md R300 to R304) -/

/-- The tick, from the state its INVENTORY left (R302). -/
def Obligations.TickOutcome : Prop :=
  ∀ (s s1 : State) (rest : List HostMove),
    s.host = .tick :: rest → s.req_ready = true → s.rst = [] → s.chip_port = none →
    exec .inventory { s with host := rest } = .next s1 →
    let new := if s1.r_cls = .ok then s1.r_uid else none
    let old := trackedUid s.session
    let lost := (old.map fun u => Event.tagLost u).toList
    let dropped := { s1 with session := .noTag, events := s1.events ++ lost }
    (s1.fault ≠ .none → step s = .next s1) ∧
    (s1.fault = .none → new = old → step s = .next s1) ∧
    (s1.fault = .none → new ≠ old → new = none → step s = .next dropped) ∧
    (∀ (u : Uid) (s2 : State), s1.fault = .none → new ≠ old → new = some u →
      exec (.getSystemInformation 0x02 (some u)) dropped = .next s2 →
      (s2.r_cls ≠ .ok → step s = .next s2) ∧
      (∀ info : TagInfo, s2.r_cls = .ok → s2.r_info = some info →
        step s = .next { s2 with
          session := .tagPresent u info.blockSize info.numBlocks
          events := s2.events ++ [.tagFound ⟨u, info.blockSize, info.numBlocks⟩] }))

/-- A tick emits at most one TagLost and at most one TagFound, TagLost first; a loss is the tracked UID's, and a found
tag is the one the session then tracks (R303). -/
def Obligations.TickEvents : Prop :=
  ∀ (s t : State) (rest : List HostMove),
    s.host = .tick :: rest → s.req_ready = true → s.rst.head? ≠ some 0 → s.chip_port = none → step s = .next t →
    t.host = rest ∧
      ∃ lost found : List Event, t.events = s.events ++ lost ++ found ∧
        (lost = [] ∨ ∃ u : Uid, trackedUid s.session = some u ∧ lost = [.tagLost u]) ∧
        (found = [] ∧ (lost = [] → t.session = s.session) ∧ (lost ≠ [] → t.session = .noTag) ∨
          ∃ (u : Uid) (bs nb : Nat), found = [.tagFound ⟨u, bs, nb⟩] ∧ t.session = .tagPresent u bs nb ∧
            trackedUid s.session ≠ some u ∧ (s.session = .noTag ∨ lost ≠ []))

end
end

