-- ==== Sys2Proof/Laws/State.lean ====
section
/-!
SUPPORT. One lemma per field per update of the state, each true by rfl, so that no proof unfolds a record update.
-/

namespace Sys2Proof.Machine

open Sys2Proof

/-! ### publish -/

@[simp] theorem publish_st (r : Rsp) (s : State) : (publish r s).st = if s.fault = .none then .done else .fault := rfl
@[simp] theorem publish_fault (r : Rsp) (s : State) : (publish r s).fault = s.fault := rfl
@[simp] theorem publish_now (r : Rsp) (s : State) : (publish r s).now = s.now := rfl
@[simp] theorem publish_rq (r : Rsp) (s : State) : (publish r s).rq = s.rq := rfl
@[simp] theorem publish_txf (r : Rsp) (s : State) : (publish r s).txf = s.txf := rfl
@[simp] theorem publish_smp (r : Rsp) (s : State) : (publish r s).smp = s.smp := rfl
@[simp] theorem publish_irq (r : Rsp) (s : State) : (publish r s).irq = s.irq := rfl
@[simp] theorem publish_ts (r : Rsp) (s : State) : (publish r s).ts = s.ts := rfl
@[simp] theorem publish_rxn (r : Rsp) (s : State) : (publish r s).rxn = s.rxn := rfl
@[simp] theorem publish_rxb (r : Rsp) (s : State) : (publish r s).rxb = s.rxb := rfl
@[simp] theorem publish_tflags (r : Rsp) (s : State) : (publish r s).tflags = s.tflags := rfl
@[simp] theorem publish_tpayload (r : Rsp) (s : State) : (publish r s).tpayload = s.tpayload := rfl
@[simp] theorem publish_m_tag (r : Rsp) (s : State) : (publish r s).m_tag = s.m_tag := rfl
@[simp] theorem publish_m_skip (r : Rsp) (s : State) : (publish r s).m_skip = s.m_skip := rfl
@[simp] theorem publish_m_start (r : Rsp) (s : State) : (publish r s).m_start = s.m_start := rfl
@[simp] theorem publish_m_nblk (r : Rsp) (s : State) : (publish r s).m_nblk = s.m_nblk := rfl
@[simp] theorem publish_m_idx (r : Rsp) (s : State) : (publish r s).m_idx = s.m_idx := rfl
@[simp] theorem publish_m_wbuf (r : Rsp) (s : State) : (publish r s).m_wbuf = s.m_wbuf := rfl
@[simp] theorem publish_r_cls (r : Rsp) (s : State) : (publish r s).r_cls = r.cls := rfl
@[simp] theorem publish_r_code (r : Rsp) (s : State) : (publish r s).r_code = r.code := rfl
@[simp] theorem publish_r_blk (r : Rsp) (s : State) : (publish r s).r_blk = r.blk := rfl
@[simp] theorem publish_r_flags (r : Rsp) (s : State) : (publish r s).r_flags = r.flags := rfl
@[simp] theorem publish_r_data (r : Rsp) (s : State) : (publish r s).r_data = r.data := rfl
@[simp] theorem publish_r_val (r : Rsp) (s : State) : (publish r s).r_val = r.val := rfl
@[simp] theorem publish_r_uid (r : Rsp) (s : State) : (publish r s).r_uid = r.uid := rfl
@[simp] theorem publish_r_info (r : Rsp) (s : State) : (publish r s).r_info = r.info := rfl
@[simp] theorem publish_rsp_valid (r : Rsp) (s : State) : (publish r s).rsp_valid = true := rfl
@[simp] theorem publish_host (r : Rsp) (s : State) : (publish r s).host = s.host := rfl
@[simp] theorem publish_rst (r : Rsp) (s : State) : (publish r s).rst = s.rst := rfl
@[simp] theorem publish_session (r : Rsp) (s : State) : (publish r s).session = s.session := rfl
@[simp] theorem publish_events (r : Rsp) (s : State) : (publish r s).events = s.events := rfl
@[simp] theorem publish_tag_mem (r : Rsp) (s : State) : (publish r s).tag_mem = s.tag_mem := rfl
@[simp] theorem publish_chip_img (r : Rsp) (s : State) : (publish r s).chip_img = s.chip_img := rfl
@[simp] theorem publish_chip_in (r : Rsp) (s : State) : (publish r s).chip_in = s.chip_in := rfl
@[simp] theorem publish_nx (r : Rsp) (s : State) : (publish r s).nx = s.nx := rfl
@[simp] theorem publish_log (r : Rsp) (s : State) : (publish r s).log = s.log := rfl
@[simp] theorem publish_ret (r : Rsp) (s : State) : (publish r s).ret = s.ret := rfl
@[simp] theorem publish_chip_port (r : Rsp) (s : State) : (publish r s).chip_port = s.chip_port := rfl

/-! ### logXchg -/

@[simp] theorem logXchg_st (tx : Bytes) (rx : Option Bytes) (s : State) : (logXchg tx rx s).st = s.st := rfl
@[simp] theorem logXchg_fault (tx : Bytes) (rx : Option Bytes) (s : State) : (logXchg tx rx s).fault = s.fault := rfl
@[simp] theorem logXchg_now (tx : Bytes) (rx : Option Bytes) (s : State) : (logXchg tx rx s).now = s.now := rfl
@[simp] theorem logXchg_rq (tx : Bytes) (rx : Option Bytes) (s : State) : (logXchg tx rx s).rq = s.rq := rfl
@[simp] theorem logXchg_txf (tx : Bytes) (rx : Option Bytes) (s : State) : (logXchg tx rx s).txf = s.txf := rfl
@[simp] theorem logXchg_smp (tx : Bytes) (rx : Option Bytes) (s : State) : (logXchg tx rx s).smp = s.smp := rfl
@[simp] theorem logXchg_irq (tx : Bytes) (rx : Option Bytes) (s : State) : (logXchg tx rx s).irq = s.irq := rfl
@[simp] theorem logXchg_ts (tx : Bytes) (rx : Option Bytes) (s : State) : (logXchg tx rx s).ts = s.ts := rfl
@[simp] theorem logXchg_rxn (tx : Bytes) (rx : Option Bytes) (s : State) : (logXchg tx rx s).rxn = s.rxn := rfl
@[simp] theorem logXchg_rxb (tx : Bytes) (rx : Option Bytes) (s : State) : (logXchg tx rx s).rxb = s.rxb := rfl
@[simp] theorem logXchg_tflags (tx : Bytes) (rx : Option Bytes) (s : State) : (logXchg tx rx s).tflags = s.tflags := rfl
@[simp] theorem logXchg_tpayload (tx : Bytes) (rx : Option Bytes) (s : State) : (logXchg tx rx s).tpayload = s.tpayload := rfl
@[simp] theorem logXchg_m_tag (tx : Bytes) (rx : Option Bytes) (s : State) : (logXchg tx rx s).m_tag = s.m_tag := rfl
@[simp] theorem logXchg_m_skip (tx : Bytes) (rx : Option Bytes) (s : State) : (logXchg tx rx s).m_skip = s.m_skip := rfl
@[simp] theorem logXchg_m_start (tx : Bytes) (rx : Option Bytes) (s : State) : (logXchg tx rx s).m_start = s.m_start := rfl
@[simp] theorem logXchg_m_nblk (tx : Bytes) (rx : Option Bytes) (s : State) : (logXchg tx rx s).m_nblk = s.m_nblk := rfl
@[simp] theorem logXchg_m_idx (tx : Bytes) (rx : Option Bytes) (s : State) : (logXchg tx rx s).m_idx = s.m_idx := rfl
@[simp] theorem logXchg_m_wbuf (tx : Bytes) (rx : Option Bytes) (s : State) : (logXchg tx rx s).m_wbuf = s.m_wbuf := rfl
@[simp] theorem logXchg_r_cls (tx : Bytes) (rx : Option Bytes) (s : State) : (logXchg tx rx s).r_cls = s.r_cls := rfl
@[simp] theorem logXchg_r_code (tx : Bytes) (rx : Option Bytes) (s : State) : (logXchg tx rx s).r_code = s.r_code := rfl
@[simp] theorem logXchg_r_blk (tx : Bytes) (rx : Option Bytes) (s : State) : (logXchg tx rx s).r_blk = s.r_blk := rfl
@[simp] theorem logXchg_r_flags (tx : Bytes) (rx : Option Bytes) (s : State) : (logXchg tx rx s).r_flags = s.r_flags := rfl
@[simp] theorem logXchg_r_data (tx : Bytes) (rx : Option Bytes) (s : State) : (logXchg tx rx s).r_data = s.r_data := rfl
@[simp] theorem logXchg_r_val (tx : Bytes) (rx : Option Bytes) (s : State) : (logXchg tx rx s).r_val = s.r_val := rfl
@[simp] theorem logXchg_r_uid (tx : Bytes) (rx : Option Bytes) (s : State) : (logXchg tx rx s).r_uid = s.r_uid := rfl
@[simp] theorem logXchg_r_info (tx : Bytes) (rx : Option Bytes) (s : State) : (logXchg tx rx s).r_info = s.r_info := rfl
@[simp] theorem logXchg_rsp_valid (tx : Bytes) (rx : Option Bytes) (s : State) : (logXchg tx rx s).rsp_valid = s.rsp_valid := rfl
@[simp] theorem logXchg_host (tx : Bytes) (rx : Option Bytes) (s : State) : (logXchg tx rx s).host = s.host := rfl
@[simp] theorem logXchg_rst (tx : Bytes) (rx : Option Bytes) (s : State) : (logXchg tx rx s).rst = s.rst := rfl
@[simp] theorem logXchg_session (tx : Bytes) (rx : Option Bytes) (s : State) : (logXchg tx rx s).session = s.session := rfl
@[simp] theorem logXchg_events (tx : Bytes) (rx : Option Bytes) (s : State) : (logXchg tx rx s).events = s.events := rfl
@[simp] theorem logXchg_tag_mem (tx : Bytes) (rx : Option Bytes) (s : State) : (logXchg tx rx s).tag_mem = s.tag_mem := rfl
@[simp] theorem logXchg_chip_img (tx : Bytes) (rx : Option Bytes) (s : State) : (logXchg tx rx s).chip_img = s.chip_img := rfl
@[simp] theorem logXchg_chip_in (tx : Bytes) (rx : Option Bytes) (s : State) : (logXchg tx rx s).chip_in = s.chip_in.tail := rfl
@[simp] theorem logXchg_nx (tx : Bytes) (rx : Option Bytes) (s : State) : (logXchg tx rx s).nx = s.nx + 1 := rfl
@[simp] theorem logXchg_log (tx : Bytes) (rx : Option Bytes) (s : State) : (logXchg tx rx s).log = s.log ++ [⟨tx, rx⟩] := rfl
@[simp] theorem logXchg_ret (tx : Bytes) (rx : Option Bytes) (s : State) : (logXchg tx rx s).ret = s.ret := rfl
@[simp] theorem logXchg_chip_port (tx : Bytes) (rx : Option Bytes) (s : State) : (logXchg tx rx s).chip_port = s.chip_port := rfl

/-! ### accept -/

@[simp] theorem accept_st (q : Request) (s : State) : (accept q s).st = .validate := rfl
@[simp] theorem accept_fault (q : Request) (s : State) : (accept q s).fault = s.fault := rfl
@[simp] theorem accept_now (q : Request) (s : State) : (accept q s).now = s.now := rfl
@[simp] theorem accept_rq (q : Request) (s : State) : (accept q s).rq = q := rfl
@[simp] theorem accept_txf (q : Request) (s : State) : (accept q s).txf = s.txf := rfl
@[simp] theorem accept_smp (q : Request) (s : State) : (accept q s).smp = s.smp := rfl
@[simp] theorem accept_irq (q : Request) (s : State) : (accept q s).irq = s.irq := rfl
@[simp] theorem accept_ts (q : Request) (s : State) : (accept q s).ts = s.ts := rfl
@[simp] theorem accept_rxn (q : Request) (s : State) : (accept q s).rxn = s.rxn := rfl
@[simp] theorem accept_rxb (q : Request) (s : State) : (accept q s).rxb = s.rxb := rfl
@[simp] theorem accept_tflags (q : Request) (s : State) : (accept q s).tflags = s.tflags := rfl
@[simp] theorem accept_tpayload (q : Request) (s : State) : (accept q s).tpayload = s.tpayload := rfl
@[simp] theorem accept_m_tag (q : Request) (s : State) : (accept q s).m_tag = s.m_tag := rfl
@[simp] theorem accept_m_skip (q : Request) (s : State) : (accept q s).m_skip = s.m_skip := rfl
@[simp] theorem accept_m_start (q : Request) (s : State) : (accept q s).m_start = s.m_start := rfl
@[simp] theorem accept_m_nblk (q : Request) (s : State) : (accept q s).m_nblk = s.m_nblk := rfl
@[simp] theorem accept_m_idx (q : Request) (s : State) : (accept q s).m_idx = s.m_idx := rfl
@[simp] theorem accept_m_wbuf (q : Request) (s : State) : (accept q s).m_wbuf = s.m_wbuf := rfl
@[simp] theorem accept_r_cls (q : Request) (s : State) : (accept q s).r_cls = s.r_cls := rfl
@[simp] theorem accept_r_code (q : Request) (s : State) : (accept q s).r_code = s.r_code := rfl
@[simp] theorem accept_r_blk (q : Request) (s : State) : (accept q s).r_blk = s.r_blk := rfl
@[simp] theorem accept_r_flags (q : Request) (s : State) : (accept q s).r_flags = s.r_flags := rfl
@[simp] theorem accept_r_data (q : Request) (s : State) : (accept q s).r_data = s.r_data := rfl
@[simp] theorem accept_r_val (q : Request) (s : State) : (accept q s).r_val = s.r_val := rfl
@[simp] theorem accept_r_uid (q : Request) (s : State) : (accept q s).r_uid = s.r_uid := rfl
@[simp] theorem accept_r_info (q : Request) (s : State) : (accept q s).r_info = s.r_info := rfl
@[simp] theorem accept_rsp_valid (q : Request) (s : State) : (accept q s).rsp_valid = false := rfl
@[simp] theorem accept_host (q : Request) (s : State) : (accept q s).host = s.host := rfl
@[simp] theorem accept_rst (q : Request) (s : State) : (accept q s).rst = s.rst := rfl
@[simp] theorem accept_session (q : Request) (s : State) : (accept q s).session = s.session := rfl
@[simp] theorem accept_events (q : Request) (s : State) : (accept q s).events = s.events := rfl
@[simp] theorem accept_tag_mem (q : Request) (s : State) : (accept q s).tag_mem = s.tag_mem := rfl
@[simp] theorem accept_chip_img (q : Request) (s : State) : (accept q s).chip_img = s.chip_img := rfl
@[simp] theorem accept_chip_in (q : Request) (s : State) : (accept q s).chip_in = s.chip_in := rfl
@[simp] theorem accept_nx (q : Request) (s : State) : (accept q s).nx = s.nx := rfl
@[simp] theorem accept_log (q : Request) (s : State) : (accept q s).log = s.log := rfl
@[simp] theorem accept_ret (q : Request) (s : State) : (accept q s).ret = s.ret := rfl
@[simp] theorem accept_chip_port (q : Request) (s : State) : (accept q s).chip_port = s.chip_port := rfl

/-! ### wait -/

@[simp] theorem wait_st (s : State) : (wait s).st = s.st := rfl
@[simp] theorem wait_fault (s : State) : (wait s).fault = s.fault := rfl
@[simp] theorem wait_now (s : State) : (wait s).now = s.now + 1 := rfl
@[simp] theorem wait_rq (s : State) : (wait s).rq = s.rq := rfl
@[simp] theorem wait_txf (s : State) : (wait s).txf = s.txf := rfl
@[simp] theorem wait_smp (s : State) : (wait s).smp = s.smp := rfl
@[simp] theorem wait_irq (s : State) : (wait s).irq = s.irq := rfl
@[simp] theorem wait_ts (s : State) : (wait s).ts = s.ts := rfl
@[simp] theorem wait_rxn (s : State) : (wait s).rxn = s.rxn := rfl
@[simp] theorem wait_rxb (s : State) : (wait s).rxb = s.rxb := rfl
@[simp] theorem wait_tflags (s : State) : (wait s).tflags = s.tflags := rfl
@[simp] theorem wait_tpayload (s : State) : (wait s).tpayload = s.tpayload := rfl
@[simp] theorem wait_m_tag (s : State) : (wait s).m_tag = s.m_tag := rfl
@[simp] theorem wait_m_skip (s : State) : (wait s).m_skip = s.m_skip := rfl
@[simp] theorem wait_m_start (s : State) : (wait s).m_start = s.m_start := rfl
@[simp] theorem wait_m_nblk (s : State) : (wait s).m_nblk = s.m_nblk := rfl
@[simp] theorem wait_m_idx (s : State) : (wait s).m_idx = s.m_idx := rfl
@[simp] theorem wait_m_wbuf (s : State) : (wait s).m_wbuf = s.m_wbuf := rfl
@[simp] theorem wait_r_cls (s : State) : (wait s).r_cls = s.r_cls := rfl
@[simp] theorem wait_r_code (s : State) : (wait s).r_code = s.r_code := rfl
@[simp] theorem wait_r_blk (s : State) : (wait s).r_blk = s.r_blk := rfl
@[simp] theorem wait_r_flags (s : State) : (wait s).r_flags = s.r_flags := rfl
@[simp] theorem wait_r_data (s : State) : (wait s).r_data = s.r_data := rfl
@[simp] theorem wait_r_val (s : State) : (wait s).r_val = s.r_val := rfl
@[simp] theorem wait_r_uid (s : State) : (wait s).r_uid = s.r_uid := rfl
@[simp] theorem wait_r_info (s : State) : (wait s).r_info = s.r_info := rfl
@[simp] theorem wait_rsp_valid (s : State) : (wait s).rsp_valid = s.rsp_valid := rfl
@[simp] theorem wait_host (s : State) : (wait s).host = s.host := rfl
@[simp] theorem wait_rst (s : State) : (wait s).rst = s.rst := rfl
@[simp] theorem wait_session (s : State) : (wait s).session = s.session := rfl
@[simp] theorem wait_events (s : State) : (wait s).events = s.events := rfl
@[simp] theorem wait_tag_mem (s : State) : (wait s).tag_mem = s.tag_mem := rfl
@[simp] theorem wait_chip_img (s : State) : (wait s).chip_img = s.chip_img := rfl
@[simp] theorem wait_chip_in (s : State) : (wait s).chip_in = s.chip_in := rfl
@[simp] theorem wait_nx (s : State) : (wait s).nx = s.nx := rfl
@[simp] theorem wait_log (s : State) : (wait s).log = s.log := rfl
@[simp] theorem wait_ret (s : State) : (wait s).ret = s.ret := rfl
@[simp] theorem wait_chip_port (s : State) : (wait s).chip_port = s.chip_port := rfl

/-! ### enterTransceive -/

@[simp] theorem enterTransceive_st (f : Bytes) (s : State) : (enterTransceive f s).st = .xClr := rfl
@[simp] theorem enterTransceive_fault (f : Bytes) (s : State) : (enterTransceive f s).fault = s.fault := rfl
@[simp] theorem enterTransceive_now (f : Bytes) (s : State) : (enterTransceive f s).now = s.now := rfl
@[simp] theorem enterTransceive_rq (f : Bytes) (s : State) : (enterTransceive f s).rq = s.rq := rfl
@[simp] theorem enterTransceive_txf (f : Bytes) (s : State) : (enterTransceive f s).txf = f := rfl
@[simp] theorem enterTransceive_smp (f : Bytes) (s : State) : (enterTransceive f s).smp = s.smp := rfl
@[simp] theorem enterTransceive_irq (f : Bytes) (s : State) : (enterTransceive f s).irq = s.irq := rfl
@[simp] theorem enterTransceive_ts (f : Bytes) (s : State) : (enterTransceive f s).ts = s.ts := rfl
@[simp] theorem enterTransceive_rxn (f : Bytes) (s : State) : (enterTransceive f s).rxn = s.rxn := rfl
@[simp] theorem enterTransceive_rxb (f : Bytes) (s : State) : (enterTransceive f s).rxb = s.rxb := rfl
@[simp] theorem enterTransceive_tflags (f : Bytes) (s : State) : (enterTransceive f s).tflags = s.tflags := rfl
@[simp] theorem enterTransceive_tpayload (f : Bytes) (s : State) : (enterTransceive f s).tpayload = s.tpayload := rfl
@[simp] theorem enterTransceive_m_tag (f : Bytes) (s : State) : (enterTransceive f s).m_tag = s.m_tag := rfl
@[simp] theorem enterTransceive_m_skip (f : Bytes) (s : State) : (enterTransceive f s).m_skip = s.m_skip := rfl
@[simp] theorem enterTransceive_m_start (f : Bytes) (s : State) : (enterTransceive f s).m_start = s.m_start := rfl
@[simp] theorem enterTransceive_m_nblk (f : Bytes) (s : State) : (enterTransceive f s).m_nblk = s.m_nblk := rfl
@[simp] theorem enterTransceive_m_idx (f : Bytes) (s : State) : (enterTransceive f s).m_idx = s.m_idx := rfl
@[simp] theorem enterTransceive_m_wbuf (f : Bytes) (s : State) : (enterTransceive f s).m_wbuf = s.m_wbuf := rfl
@[simp] theorem enterTransceive_r_cls (f : Bytes) (s : State) : (enterTransceive f s).r_cls = s.r_cls := rfl
@[simp] theorem enterTransceive_r_code (f : Bytes) (s : State) : (enterTransceive f s).r_code = s.r_code := rfl
@[simp] theorem enterTransceive_r_blk (f : Bytes) (s : State) : (enterTransceive f s).r_blk = s.r_blk := rfl
@[simp] theorem enterTransceive_r_flags (f : Bytes) (s : State) : (enterTransceive f s).r_flags = s.r_flags := rfl
@[simp] theorem enterTransceive_r_data (f : Bytes) (s : State) : (enterTransceive f s).r_data = s.r_data := rfl
@[simp] theorem enterTransceive_r_val (f : Bytes) (s : State) : (enterTransceive f s).r_val = s.r_val := rfl
@[simp] theorem enterTransceive_r_uid (f : Bytes) (s : State) : (enterTransceive f s).r_uid = s.r_uid := rfl
@[simp] theorem enterTransceive_r_info (f : Bytes) (s : State) : (enterTransceive f s).r_info = s.r_info := rfl
@[simp] theorem enterTransceive_rsp_valid (f : Bytes) (s : State) : (enterTransceive f s).rsp_valid = s.rsp_valid := rfl
@[simp] theorem enterTransceive_host (f : Bytes) (s : State) : (enterTransceive f s).host = s.host := rfl
@[simp] theorem enterTransceive_rst (f : Bytes) (s : State) : (enterTransceive f s).rst = s.rst := rfl
@[simp] theorem enterTransceive_session (f : Bytes) (s : State) : (enterTransceive f s).session = s.session := rfl
@[simp] theorem enterTransceive_events (f : Bytes) (s : State) : (enterTransceive f s).events = s.events := rfl
@[simp] theorem enterTransceive_tag_mem (f : Bytes) (s : State) : (enterTransceive f s).tag_mem = knownAfterFrame f s.tag_mem := rfl
@[simp] theorem enterTransceive_chip_img (f : Bytes) (s : State) : (enterTransceive f s).chip_img = s.chip_img := rfl
@[simp] theorem enterTransceive_chip_in (f : Bytes) (s : State) : (enterTransceive f s).chip_in = s.chip_in := rfl
@[simp] theorem enterTransceive_nx (f : Bytes) (s : State) : (enterTransceive f s).nx = s.nx := rfl
@[simp] theorem enterTransceive_log (f : Bytes) (s : State) : (enterTransceive f s).log = s.log := rfl
@[simp] theorem enterTransceive_ret (f : Bytes) (s : State) : (enterTransceive f s).ret = s.ret := rfl
@[simp] theorem enterTransceive_chip_port (f : Bytes) (s : State) : (enterTransceive f s).chip_port = s.chip_port := rfl

/-! ### noAnswerResult -/

@[simp] theorem noAnswerResult_st (s : State) : (noAnswerResult s).st = .xRestore := rfl
@[simp] theorem noAnswerResult_fault (s : State) : (noAnswerResult s).fault = s.fault := rfl
@[simp] theorem noAnswerResult_now (s : State) : (noAnswerResult s).now = s.now := rfl
@[simp] theorem noAnswerResult_rq (s : State) : (noAnswerResult s).rq = s.rq := rfl
@[simp] theorem noAnswerResult_txf (s : State) : (noAnswerResult s).txf = s.txf := rfl
@[simp] theorem noAnswerResult_smp (s : State) : (noAnswerResult s).smp = s.smp := rfl
@[simp] theorem noAnswerResult_irq (s : State) : (noAnswerResult s).irq = s.irq := rfl
@[simp] theorem noAnswerResult_ts (s : State) : (noAnswerResult s).ts = s.ts := rfl
@[simp] theorem noAnswerResult_rxn (s : State) : (noAnswerResult s).rxn = s.rxn := rfl
@[simp] theorem noAnswerResult_rxb (s : State) : (noAnswerResult s).rxb = s.rxb := rfl
@[simp] theorem noAnswerResult_tflags (s : State) : (noAnswerResult s).tflags = Config.noAnswerFlags := rfl
@[simp] theorem noAnswerResult_tpayload (s : State) : (noAnswerResult s).tpayload = [] := rfl
@[simp] theorem noAnswerResult_m_tag (s : State) : (noAnswerResult s).m_tag = s.m_tag := rfl
@[simp] theorem noAnswerResult_m_skip (s : State) : (noAnswerResult s).m_skip = s.m_skip := rfl
@[simp] theorem noAnswerResult_m_start (s : State) : (noAnswerResult s).m_start = s.m_start := rfl
@[simp] theorem noAnswerResult_m_nblk (s : State) : (noAnswerResult s).m_nblk = s.m_nblk := rfl
@[simp] theorem noAnswerResult_m_idx (s : State) : (noAnswerResult s).m_idx = s.m_idx := rfl
@[simp] theorem noAnswerResult_m_wbuf (s : State) : (noAnswerResult s).m_wbuf = s.m_wbuf := rfl
@[simp] theorem noAnswerResult_r_cls (s : State) : (noAnswerResult s).r_cls = s.r_cls := rfl
@[simp] theorem noAnswerResult_r_code (s : State) : (noAnswerResult s).r_code = s.r_code := rfl
@[simp] theorem noAnswerResult_r_blk (s : State) : (noAnswerResult s).r_blk = s.r_blk := rfl
@[simp] theorem noAnswerResult_r_flags (s : State) : (noAnswerResult s).r_flags = s.r_flags := rfl
@[simp] theorem noAnswerResult_r_data (s : State) : (noAnswerResult s).r_data = s.r_data := rfl
@[simp] theorem noAnswerResult_r_val (s : State) : (noAnswerResult s).r_val = s.r_val := rfl
@[simp] theorem noAnswerResult_r_uid (s : State) : (noAnswerResult s).r_uid = s.r_uid := rfl
@[simp] theorem noAnswerResult_r_info (s : State) : (noAnswerResult s).r_info = s.r_info := rfl
@[simp] theorem noAnswerResult_rsp_valid (s : State) : (noAnswerResult s).rsp_valid = s.rsp_valid := rfl
@[simp] theorem noAnswerResult_host (s : State) : (noAnswerResult s).host = s.host := rfl
@[simp] theorem noAnswerResult_rst (s : State) : (noAnswerResult s).rst = s.rst := rfl
@[simp] theorem noAnswerResult_session (s : State) : (noAnswerResult s).session = s.session := rfl
@[simp] theorem noAnswerResult_events (s : State) : (noAnswerResult s).events = s.events := rfl
@[simp] theorem noAnswerResult_tag_mem (s : State) : (noAnswerResult s).tag_mem = s.tag_mem := rfl
@[simp] theorem noAnswerResult_chip_img (s : State) : (noAnswerResult s).chip_img = s.chip_img := rfl
@[simp] theorem noAnswerResult_chip_in (s : State) : (noAnswerResult s).chip_in = s.chip_in := rfl
@[simp] theorem noAnswerResult_nx (s : State) : (noAnswerResult s).nx = s.nx := rfl
@[simp] theorem noAnswerResult_log (s : State) : (noAnswerResult s).log = s.log := rfl
@[simp] theorem noAnswerResult_ret (s : State) : (noAnswerResult s).ret = s.ret := rfl
@[simp] theorem noAnswerResult_chip_port (s : State) : (noAnswerResult s).chip_port = s.chip_port := rfl

/-! ### setPlan -/

@[simp] theorem setPlan_st (tag : TagRec) (p : MapPlan) (s : State) : (setPlan tag p s).st = s.st := rfl
@[simp] theorem setPlan_fault (tag : TagRec) (p : MapPlan) (s : State) : (setPlan tag p s).fault = s.fault := rfl
@[simp] theorem setPlan_now (tag : TagRec) (p : MapPlan) (s : State) : (setPlan tag p s).now = s.now := rfl
@[simp] theorem setPlan_rq (tag : TagRec) (p : MapPlan) (s : State) : (setPlan tag p s).rq = s.rq := rfl
@[simp] theorem setPlan_txf (tag : TagRec) (p : MapPlan) (s : State) : (setPlan tag p s).txf = s.txf := rfl
@[simp] theorem setPlan_smp (tag : TagRec) (p : MapPlan) (s : State) : (setPlan tag p s).smp = s.smp := rfl
@[simp] theorem setPlan_irq (tag : TagRec) (p : MapPlan) (s : State) : (setPlan tag p s).irq = s.irq := rfl
@[simp] theorem setPlan_ts (tag : TagRec) (p : MapPlan) (s : State) : (setPlan tag p s).ts = s.ts := rfl
@[simp] theorem setPlan_rxn (tag : TagRec) (p : MapPlan) (s : State) : (setPlan tag p s).rxn = s.rxn := rfl
@[simp] theorem setPlan_rxb (tag : TagRec) (p : MapPlan) (s : State) : (setPlan tag p s).rxb = s.rxb := rfl
@[simp] theorem setPlan_tflags (tag : TagRec) (p : MapPlan) (s : State) : (setPlan tag p s).tflags = s.tflags := rfl
@[simp] theorem setPlan_tpayload (tag : TagRec) (p : MapPlan) (s : State) : (setPlan tag p s).tpayload = s.tpayload := rfl
@[simp] theorem setPlan_m_tag (tag : TagRec) (p : MapPlan) (s : State) : (setPlan tag p s).m_tag = tag := rfl
@[simp] theorem setPlan_m_skip (tag : TagRec) (p : MapPlan) (s : State) : (setPlan tag p s).m_skip = BitVec.ofNat 5 p.skip := rfl
@[simp] theorem setPlan_m_start (tag : TagRec) (p : MapPlan) (s : State) : (setPlan tag p s).m_start = BitVec.ofNat 8 p.startBlock := rfl
@[simp] theorem setPlan_m_nblk (tag : TagRec) (p : MapPlan) (s : State) : (setPlan tag p s).m_nblk = p.nblk := rfl
@[simp] theorem setPlan_m_idx (tag : TagRec) (p : MapPlan) (s : State) : (setPlan tag p s).m_idx = s.m_idx := rfl
@[simp] theorem setPlan_m_wbuf (tag : TagRec) (p : MapPlan) (s : State) : (setPlan tag p s).m_wbuf = s.m_wbuf := rfl
@[simp] theorem setPlan_r_cls (tag : TagRec) (p : MapPlan) (s : State) : (setPlan tag p s).r_cls = s.r_cls := rfl
@[simp] theorem setPlan_r_code (tag : TagRec) (p : MapPlan) (s : State) : (setPlan tag p s).r_code = s.r_code := rfl
@[simp] theorem setPlan_r_blk (tag : TagRec) (p : MapPlan) (s : State) : (setPlan tag p s).r_blk = s.r_blk := rfl
@[simp] theorem setPlan_r_flags (tag : TagRec) (p : MapPlan) (s : State) : (setPlan tag p s).r_flags = s.r_flags := rfl
@[simp] theorem setPlan_r_data (tag : TagRec) (p : MapPlan) (s : State) : (setPlan tag p s).r_data = s.r_data := rfl
@[simp] theorem setPlan_r_val (tag : TagRec) (p : MapPlan) (s : State) : (setPlan tag p s).r_val = s.r_val := rfl
@[simp] theorem setPlan_r_uid (tag : TagRec) (p : MapPlan) (s : State) : (setPlan tag p s).r_uid = s.r_uid := rfl
@[simp] theorem setPlan_r_info (tag : TagRec) (p : MapPlan) (s : State) : (setPlan tag p s).r_info = s.r_info := rfl
@[simp] theorem setPlan_rsp_valid (tag : TagRec) (p : MapPlan) (s : State) : (setPlan tag p s).rsp_valid = s.rsp_valid := rfl
@[simp] theorem setPlan_host (tag : TagRec) (p : MapPlan) (s : State) : (setPlan tag p s).host = s.host := rfl
@[simp] theorem setPlan_rst (tag : TagRec) (p : MapPlan) (s : State) : (setPlan tag p s).rst = s.rst := rfl
@[simp] theorem setPlan_session (tag : TagRec) (p : MapPlan) (s : State) : (setPlan tag p s).session = s.session := rfl
@[simp] theorem setPlan_events (tag : TagRec) (p : MapPlan) (s : State) : (setPlan tag p s).events = s.events := rfl
@[simp] theorem setPlan_tag_mem (tag : TagRec) (p : MapPlan) (s : State) : (setPlan tag p s).tag_mem = s.tag_mem := rfl
@[simp] theorem setPlan_chip_img (tag : TagRec) (p : MapPlan) (s : State) : (setPlan tag p s).chip_img = s.chip_img := rfl
@[simp] theorem setPlan_chip_in (tag : TagRec) (p : MapPlan) (s : State) : (setPlan tag p s).chip_in = s.chip_in := rfl
@[simp] theorem setPlan_nx (tag : TagRec) (p : MapPlan) (s : State) : (setPlan tag p s).nx = s.nx := rfl
@[simp] theorem setPlan_log (tag : TagRec) (p : MapPlan) (s : State) : (setPlan tag p s).log = s.log := rfl
@[simp] theorem setPlan_ret (tag : TagRec) (p : MapPlan) (s : State) : (setPlan tag p s).ret = s.ret := rfl
@[simp] theorem setPlan_chip_port (tag : TagRec) (p : MapPlan) (s : State) : (setPlan tag p s).chip_port = s.chip_port := rfl

/-! ### takeReset -/

@[simp] theorem takeReset_st (s : State) : (takeReset s).st = State.reset.st := rfl
@[simp] theorem takeReset_fault (s : State) : (takeReset s).fault = State.reset.fault := rfl
@[simp] theorem takeReset_now (s : State) : (takeReset s).now = State.reset.now := rfl
@[simp] theorem takeReset_rq (s : State) : (takeReset s).rq = State.reset.rq := rfl
@[simp] theorem takeReset_txf (s : State) : (takeReset s).txf = State.reset.txf := rfl
@[simp] theorem takeReset_smp (s : State) : (takeReset s).smp = State.reset.smp := rfl
@[simp] theorem takeReset_irq (s : State) : (takeReset s).irq = State.reset.irq := rfl
@[simp] theorem takeReset_ts (s : State) : (takeReset s).ts = State.reset.ts := rfl
@[simp] theorem takeReset_rxn (s : State) : (takeReset s).rxn = State.reset.rxn := rfl
@[simp] theorem takeReset_rxb (s : State) : (takeReset s).rxb = State.reset.rxb := rfl
@[simp] theorem takeReset_tflags (s : State) : (takeReset s).tflags = State.reset.tflags := rfl
@[simp] theorem takeReset_tpayload (s : State) : (takeReset s).tpayload = State.reset.tpayload := rfl
@[simp] theorem takeReset_m_tag (s : State) : (takeReset s).m_tag = State.reset.m_tag := rfl
@[simp] theorem takeReset_m_skip (s : State) : (takeReset s).m_skip = State.reset.m_skip := rfl
@[simp] theorem takeReset_m_start (s : State) : (takeReset s).m_start = State.reset.m_start := rfl
@[simp] theorem takeReset_m_nblk (s : State) : (takeReset s).m_nblk = State.reset.m_nblk := rfl
@[simp] theorem takeReset_m_idx (s : State) : (takeReset s).m_idx = State.reset.m_idx := rfl
@[simp] theorem takeReset_m_wbuf (s : State) : (takeReset s).m_wbuf = State.reset.m_wbuf := rfl
@[simp] theorem takeReset_r_cls (s : State) : (takeReset s).r_cls = State.reset.r_cls := rfl
@[simp] theorem takeReset_r_code (s : State) : (takeReset s).r_code = State.reset.r_code := rfl
@[simp] theorem takeReset_r_blk (s : State) : (takeReset s).r_blk = State.reset.r_blk := rfl
@[simp] theorem takeReset_r_flags (s : State) : (takeReset s).r_flags = State.reset.r_flags := rfl
@[simp] theorem takeReset_r_data (s : State) : (takeReset s).r_data = State.reset.r_data := rfl
@[simp] theorem takeReset_r_val (s : State) : (takeReset s).r_val = State.reset.r_val := rfl
@[simp] theorem takeReset_r_uid (s : State) : (takeReset s).r_uid = State.reset.r_uid := rfl
@[simp] theorem takeReset_r_info (s : State) : (takeReset s).r_info = State.reset.r_info := rfl
@[simp] theorem takeReset_rsp_valid (s : State) : (takeReset s).rsp_valid = State.reset.rsp_valid := rfl
@[simp] theorem takeReset_host (s : State) : (takeReset s).host = s.host := rfl
@[simp] theorem takeReset_rst (s : State) : (takeReset s).rst = s.rst := rfl
@[simp] theorem takeReset_session (s : State) : (takeReset s).session = s.session := rfl
@[simp] theorem takeReset_events (s : State) : (takeReset s).events = s.events := rfl
@[simp] theorem takeReset_tag_mem (s : State) : (takeReset s).tag_mem = s.tag_mem := rfl
@[simp] theorem takeReset_chip_img (s : State) : (takeReset s).chip_img = if s.running then [] else s.chip_img := rfl
@[simp] theorem takeReset_chip_in (s : State) : (takeReset s).chip_in = s.chip_in := rfl
@[simp] theorem takeReset_nx (s : State) : (takeReset s).nx = s.nx := rfl
@[simp] theorem takeReset_log (s : State) : (takeReset s).log = s.log := rfl
@[simp] theorem takeReset_ret (s : State) : (takeReset s).ret = State.reset.ret := rfl
@[simp] theorem takeReset_chip_port (s : State) : (takeReset s).chip_port = State.reset.chip_port := rfl

end Sys2Proof.Machine
end

