-- ==== Sys2Proof/Laws/Ops.lean ====
section
/-!
SUPPORT. What the shared operations can do, said once: the sorted lists under memory and chip image, the exchange, and
the algebra of the coming answers (Safety.lean).
-/

namespace Sys2Proof.Machine

open Sys2Proof

/-! ## Sorted lists of numbered entries -/

section Entries

variable {α : Type}

@[simp] theorem entryAt_nil (a : Nat) : entryAt a ([] : List (Nat × α)) = none := rfl

theorem entryAt_cons (a k : Nat) (v : α) (l : List (Nat × α)) :
    entryAt a ((k, v) :: l) = if k = a then some v else entryAt a l := rfl

/-- Reading back what was set. -/
@[simp] theorem entryAt_entrySet_same (a : Nat) (v : α) (l : List (Nat × α)) : entryAt a (entrySet a v l) = some v := by
  induction l with
  | nil => simp [entrySet, entryAt]
  | cons e l ih =>
    obtain ⟨k, w⟩ := e
    unfold entrySet
    split
    · simp [entryAt]
    · split
      · simp [entryAt]
      · rw [entryAt_cons, if_neg (by omega), ih]

/-- Setting one entry leaves every other alone. -/
theorem entryAt_entrySet_other {a b : Nat} (h : b ≠ a) (v : α) (l : List (Nat × α)) :
    entryAt b (entrySet a v l) = entryAt b l := by
  induction l with
  | nil => simp [entrySet, entryAt, Ne.symm h]
  | cons e l ih =>
    obtain ⟨k, w⟩ := e
    unfold entrySet
    split
    · simp [entryAt, Ne.symm h]
    · split
      · rename_i hk; subst hk; simp [entryAt, Ne.symm h]
      · simp [entryAt, ih]

/-- What dropping `n` entries from `a` on leaves. -/
theorem entryAt_entryDrop (a n b : Nat) (l : List (Nat × α)) :
    entryAt b (entryDrop a n l) = if a ≤ b ∧ b < a + n then none else entryAt b l := by
  induction l with
  | nil => simp [entryDrop]
  | cons e l ih =>
    obtain ⟨k, w⟩ := e
    unfold entryDrop at ih ⊢
    rw [List.filter_cons]
    split
    · rename_i hk
      simp only [Bool.or_eq_true, decide_eq_true_eq] at hk
      rw [entryAt_cons, entryAt_cons, ih]
      by_cases hkb : k = b
      · subst hkb; rw [if_pos rfl, if_neg (by omega), if_pos rfl]
      · simp [hkb]
    · rename_i hk
      simp only [Bool.or_eq_true, decide_eq_true_eq] at hk
      rw [ih, entryAt_cons]
      by_cases hkb : k = b
      · subst hkb; rw [if_pos (by omega), if_pos (by omega)]
      · simp [hkb]

/-- What keeping the entries at some addresses leaves. -/
theorem entryAt_filter (p : Nat → Bool) (b : Nat) (l : List (Nat × α)) :
    entryAt b (l.filter fun e => p e.1) = if p b then entryAt b l else none := by
  induction l with
  | nil => simp
  | cons e l ih =>
    obtain ⟨k, w⟩ := e
    rw [List.filter_cons]
    cases hk : p k with
    | true =>
      rw [if_pos rfl, entryAt_cons, entryAt_cons, ih]
      by_cases hkb : k = b
      · subst hkb; simp [hk]
      · simp [hkb]
    | false =>
      rw [if_neg (by simp), ih, entryAt_cons]
      by_cases hkb : k = b
      · subst hkb; simp [hk]
      · simp [hkb]

theorem mem_entrySet {a : Nat} {v : α} {l : List (Nat × α)} {e : Nat × α} (h : e ∈ entrySet a v l) :
    e = (a, v) ∨ e ∈ l := by
  induction l with
  | nil => simpa [entrySet] using h
  | cons x l ih =>
    obtain ⟨k, w⟩ := x
    unfold entrySet at h
    split at h
    · simpa using h
    · split at h
      · rcases List.mem_cons.1 h with h | h
        · exact .inl h
        · exact .inr (List.mem_cons_of_mem _ h)
      · rcases List.mem_cons.1 h with h | h
        · exact .inr (h ▸ List.mem_cons_self)
        · exact (ih h).imp_right (List.mem_cons_of_mem _)

/-- Setting an entry keeps the canonical form. -/
theorem rising_entrySet (a : Nat) (v : α) {l : List (Nat × α)} (h : rising l) : rising (entrySet a v l) := by
  induction l with
  | nil => simp [entrySet, rising]
  | cons x l ih =>
    obtain ⟨k, w⟩ := x
    obtain ⟨hk, hl⟩ := List.pairwise_cons.1 h
    unfold entrySet
    split
    · rename_i hak
      refine List.pairwise_cons.2 ⟨fun e he => ?_, h⟩
      rcases List.mem_cons.1 he with rfl | he
      · exact hak
      · exact lt_trans hak (hk e he)
    · split
      · rename_i h1 h2; subst h2; exact List.pairwise_cons.2 ⟨hk, hl⟩
      · rename_i h1 h2
        refine List.pairwise_cons.2 ⟨fun e he => ?_, ih hl⟩
        rcases mem_entrySet he with rfl | he
        · show k < a; omega
        · exact hk e he

/-- Dropping entries keeps the canonical form. -/
theorem rising_entryDrop (a n : Nat) {l : List (Nat × α)} (h : rising l) : rising (entryDrop a n l) :=
  List.Pairwise.sublist List.filter_sublist h

end Entries

/-! ## Tag memory -/

/-- Every memory operation keeps the canonical form. -/
theorem memWrite_wf (bs : Bytes) : ∀ (a : Nat) {m : Memory}, Memory.wf m → Memory.wf (memWrite a bs m) := by
  induction bs with
  | nil => intro a m h; exact h
  | cons b bs ih => intro a m h; exact ih (a + 1) (rising_entrySet a b h)

theorem memForgetBlocks_wf (uid : Option Uid) (first n : Nat) {m : Memory} (h : Memory.wf m) :
    Memory.wf (memForgetBlocks uid first n m) := List.Pairwise.sublist List.filter_sublist h

/-- All that a frame can do to what is known: nothing, some blocks become unknown, or everything. -/
theorem knownAfterFrame_cases (f : Bytes) :
    (∀ m : Memory, knownAfterFrame f m = m) ∨ (∀ m : Memory, knownAfterFrame f m = []) ∨
      ∃ (uid : Option Uid) (first n : Nat), ∀ m : Memory, knownAfterFrame f m = memForgetBlocks uid first n m := by
  unfold knownAfterFrame
  split
  · rename_i fl code rest
    cases hk : codeKeepsMemory code with
    | true => exact .inl fun m => if_pos rfl
    | false =>
      simp only [Bool.false_eq_true, if_false]
      cases takeIf (fl.getLsbD 5) takeUid rest with
      | none => exact .inr (.inl fun m => rfl)
      | some p =>
        obtain ⟨uid, params⟩ := p
        cases hb : frameBlocks code params with
        | none => simp only [hb]; exact .inr (.inl fun m => trivial)
        | some q => simp only [hb]; exact .inr (.inr ⟨uid, q.1, q.2, fun m => rfl⟩)
  · exact .inr (.inl fun m => rfl)

theorem knownAfterFrame_wf (f : Bytes) {m : Memory} (h : Memory.wf m) : Memory.wf (knownAfterFrame f m) := by
  rcases knownAfterFrame_cases f with e | e | ⟨uid, first, n, e⟩ <;> rw [e]
  · exact h
  · exact List.Pairwise.nil
  · exact memForgetBlocks_wf uid first n h

theorem reset_memory_wf : Memory.wf State.reset.tag_mem := List.Pairwise.nil

/-- What a write leaves: the bytes written in their range, everything else as it was. -/
theorem memRead_memWrite (bs : Bytes) : ∀ (a b : Nat) (m : Memory),
    memRead b (memWrite a bs m) = if a ≤ b ∧ b < a + bs.length then bs[b - a]? else memRead b m := by
  induction bs with
  | nil => intro a b m; simp only [memWrite, List.length_nil]; split <;> first | omega | rfl
  | cons x bs ih =>
    intro a b m
    rw [memWrite, ih (a + 1) b]
    by_cases hb : b = a
    · subst hb; simp [memRead]
    · simp only [memRead, List.length_cons, entryAt_entrySet_other hb]
      by_cases h : a + 1 ≤ b ∧ b < a + 1 + bs.length
      · rw [if_pos h, if_pos (by omega), show b - a = (b - (a + 1)) + 1 by omega, List.getElem?_cons_succ]
      · rw [if_neg h, if_neg (by omega)]

/-- What forgetting blocks leaves. -/
theorem memRead_memForgetBlocks (uid : Option Uid) (first n b : Nat) (m : Memory) :
    memRead b (memForgetBlocks uid first n m) = if inBlocks uid first n b then none else memRead b m := by
  rw [memRead, memForgetBlocks, entryAt_filter fun a => !inBlocks uid first n a]
  cases inBlocks uid first n b <;> rfl

/-- Where the addresses of some blocks of one tag stand. -/
theorem inBlocks_some (u : Uid) {first n a : Nat} (h : first + n ≤ 256) :
    inBlocks (some u) first n a = true ↔ slotAddr u first ≤ a ∧ a < slotAddr u (first + n) := by
  simp only [inBlocks, slotAddr, Option.all_some, Bool.and_eq_true, decide_eq_true_eq]
  omega

/-- A frame gives no byte a value. -/
theorem memRead_knownAfterFrame (f : Bytes) (a : Nat) (m : Memory) :
    memRead a (knownAfterFrame f m) = memRead a m ∨ memRead a (knownAfterFrame f m) = none := by
  rcases knownAfterFrame_cases f with e | e | ⟨uid, first, n, e⟩ <;> rw [e]
  · exact .inl rfl
  · exact .inr rfl
  · rw [memRead_memForgetBlocks]; split
    · exact .inr rfl
    · exact .inl rfl

/-! ## The chip's registers as commanded -/

/-- What is known of a register after it was recorded; nothing where no bit is known. -/
theorem chipReg_chipRegSet (a b : Byte) (r : ChipReg) (img : List (Nat × ChipReg)) :
    chipReg b (chipRegSet a r img) = if b = a then (if r.known = 0 then ⟨0, 0⟩ else r) else chipReg b img := by
  unfold chipReg chipRegSet
  by_cases hb : b = a
  · subst hb
    by_cases hk : r.known = 0
    · simp [hk, entryAt_entryDrop]
    · rw [if_neg hk, if_pos rfl, if_neg hk, entryAt_entrySet_same]; rfl
  · have hn : b.toNat ≠ a.toNat := fun h => hb (BitVec.eq_of_toNat_eq h)
    by_cases hk : r.known = 0
    · simp only [hk, if_true, if_neg hb, entryAt_entryDrop]
      rw [if_neg (by omega)]
    · simp only [hk, if_false, if_neg hb, entryAt_entrySet_other hn]

theorem chipRegSet_wf (a : Byte) {r : ChipReg} {img : List (Nat × ChipReg)} (hr : r.value &&& ~~~r.known = 0)
    (h : chipImgWf img = true) : chipImgWf (chipRegSet a r img) = true := by
  simp only [chipImgWf, Bool.and_eq_true, decide_eq_true_eq, List.all_eq_true] at h ⊢
  unfold chipRegSet
  split
  · refine ⟨rising_entryDrop _ _ h.1, fun e he => h.2 e (List.mem_of_mem_filter he)⟩
  · rename_i hk
    refine ⟨rising_entrySet _ _ h.1, fun e he => ?_⟩
    rcases mem_entrySet he with rfl | he
    · exact ⟨hk, hr⟩
    · exact h.2 e he

theorem chipReg_wf (a : Byte) {img : List (Nat × ChipReg)} (h : chipImgWf img = true) :
    (chipReg a img).value &&& ~~~(chipReg a img).known = 0 := by
  simp only [chipImgWf, Bool.and_eq_true, decide_eq_true_eq, List.all_eq_true] at h
  have h2 := h.2
  clear h
  unfold chipReg
  induction img with
  | nil => simp
  | cons e l ih =>
    obtain ⟨k, r⟩ := e
    rw [entryAt_cons]
    split
    · exact (h2 (k, r) List.mem_cons_self).2
    · exact ih fun e he => h2 e (List.mem_cons_of_mem _ he)

theorem chipRegWrite_wf (a : Byte) (v : Word) {img : List (Nat × ChipReg)} (h : chipImgWf img = true) :
    chipImgWf (chipRegWrite a v img) = true := chipRegSet_wf a (by simp) h

theorem chipRegOr_wf (a : Byte) (m : Word) {img : List (Nat × ChipReg)} (h : chipImgWf img = true) :
    chipImgWf (chipRegOr a m img) = true := by
  refine chipRegSet_wf a ?_ h
  have h0 := chipReg_wf a h
  ext i hi
  have := congrArg (fun w : Word => w[i]) h0
  simp only [BitVec.getElem_and, BitVec.getElem_or, BitVec.getElem_not] at this ⊢
  revert this; cases (chipReg a img).value[i] <;> cases (chipReg a img).known[i] <;> cases m[i] <;> simp

theorem chipRegAnd_wf (a : Byte) (m : Word) {img : List (Nat × ChipReg)} (h : chipImgWf img = true) :
    chipImgWf (chipRegAnd a m img) = true := by
  refine chipRegSet_wf a ?_ h
  have h0 := chipReg_wf a h
  ext i hi
  have := congrArg (fun w : Word => w[i]) h0
  simp only [BitVec.getElem_and, BitVec.getElem_or, BitVec.getElem_not] at this ⊢
  revert this; cases (chipReg a img).value[i] <;> cases (chipReg a img).known[i] <;> cases m[i] <;> simp

/-! ## Exchange -/

@[simp] theorem fitAnswer_length (k : Nat) : ∀ (n i : Nat) (rx : Bytes), (fitAnswer k i n rx).length = n
  | 0, _, _ => rfl
  | n + 1, i, b :: bs => by simp [fitAnswer, fitAnswer_length k n (i + 1) bs]
  | n + 1, i, [] => by simp [fitAnswer, fitAnswer_length k n (i + 1) []]

/-- An answer of the right length is returned as it is. -/
theorem fitAnswer_eq (k : Nat) : ∀ (rx : Bytes) (i : Nat), fitAnswer k i rx.length rx = rx
  | [], _ => rfl
  | b :: bs, i => by simp [fitAnswer, fitAnswer_eq k bs (i + 1)]

/-- The length law of 00_scope.md R13. -/
theorem drawn_length {n : Nat} {s : State} {rx : Bytes} (h : drawn n s = some rx) : rx.length = n := by
  unfold drawn at h
  split at h <;> simp at h
  subst h; simp

theorem answerAt_length {k n : Nat} {s : State} {rx : Bytes} (h : answerAt k n s = some rx) : rx.length = n :=
  drawn_length h

theorem drawn_eq_answerAt (n : Nat) (s : State) : drawn n s = answerAt 0 n s := rfl

/-- The coming answers depend on the tape and the count of exchanges alone. -/
theorem answerAt_congr {s t : State} (h1 : s.chip_in = t.chip_in) (h2 : s.nx = t.nx) (k n : Nat) :
    answerAt k n s = answerAt k n t := by
  simp only [answerAt, drawn, nextAnswer, h1, h2]

theorem valueAt_congr {s t : State} (h1 : s.chip_in = t.chip_in) (h2 : s.nx = t.nx) (k : Nat) :
    valueAt k s = valueAt k t := by simp only [valueAt, answerAt_congr h1 h2]

theorem sentFrom_congr {s t : State} (h1 : s.chip_in = t.chip_in) (h2 : s.nx = t.nx) :
    ∀ (txs : List Bytes) (k : Nat), sentFrom k s txs = sentFrom k t txs
  | [], _ => rfl
  | tx :: txs, k => by simp only [sentFrom, answerAt_congr h1 h2, sentFrom_congr h1 h2 txs]

@[simp] theorem sentFrom_length (k : Nat) (s : State) (txs : List Bytes) : (sentFrom k s txs).length = txs.length := by
  induction txs generalizing k with
  | nil => rfl
  | cons tx txs ih => simp [sentFrom, ih]

theorem sentFrom_append (s : State) (l1 l2 : List Bytes) (k : Nat) :
    sentFrom k s (l1 ++ l2) = sentFrom k s l1 ++ sentFrom (k + l1.length) s l2 := by
  induction l1 generalizing k with
  | nil => rfl
  | cons tx l1 ih => simp [sentFrom, ih, Nat.add_assoc, Nat.add_comm 1]

/-- An answer to come is one exchange nearer after one exchange. -/
theorem answerAt_afterExchanges (txs : List Bytes) (s : State) (k n : Nat) :
    answerAt k n (s.afterExchanges txs) = answerAt (txs.length + k) n s := by
  simp [answerAt, drawn, nextAnswer, State.afterExchanges, List.drop_drop, Nat.add_assoc]

theorem valueAt_afterExchanges (txs : List Bytes) (s : State) (k : Nat) :
    valueAt k (s.afterExchanges txs) = valueAt (txs.length + k) s := by
  simp [valueAt, answerAt_afterExchanges]

theorem sentFrom_afterExchanges (txs : List Bytes) (s : State) (l : List Bytes) (k : Nat) :
    sentFrom k (s.afterExchanges txs) l = sentFrom (txs.length + k) s l := by
  induction l generalizing k with
  | nil => rfl
  | cons tx l ih => simp [sentFrom, answerAt_afterExchanges, ih, Nat.add_assoc]

/-- Exchanges in two parts. -/
theorem afterExchanges_append (l1 l2 : List Bytes) (s : State) :
    s.afterExchanges (l1 ++ l2) = (s.afterExchanges l1).afterExchanges l2 := by
  have h := sentFrom_afterExchanges l1 s l2 0
  simp only [State.afterExchanges, State.sent, List.length_append, List.drop_drop, Nat.add_assoc,
    sentFrom_append, List.append_assoc, Nat.zero_add, Nat.add_zero] at h ⊢
  rw [h]
  congr 1
  rw [List.filterMap_append, List.getLast?_append]
  cases (List.filterMap (fun x : Xchg => x.rx) (sentFrom l1.length s l2)).getLast? <;> rfl

theorem allReturn_append (l1 l2 : List Bytes) (s : State) :
    s.allReturn (l1 ++ l2) = (s.allReturn l1 && (s.afterExchanges l1).allReturn l2) := by
  simp [State.allReturn, State.sent, sentFrom_append, sentFrom_afterExchanges]

theorem allReturn_congr {s t : State} (h1 : s.chip_in = t.chip_in) (h2 : s.nx = t.nx) (txs : List Bytes) :
    s.allReturn txs = t.allReturn txs := by simp only [State.allReturn, State.sent, sentFrom_congr h1 h2]

/-- The sampling of `rst` where no reset is to come. -/
theorem sampleRst_nil {s : State} (h : s.rst = []) : sampleRst s = .done s := by simp [sampleRst, h]

/-- All that a sampling point can do: nothing, a reset comes one point nearer, or a reset is taken. -/
theorem sampleRst_cases (s : State) :
    (s.rst = [] ∧ sampleRst s = .done s) ∨
    (∃ (n : Nat) (rest : List Nat), s.rst = (n + 1) :: rest ∧ sampleRst s = .done { s with rst := n :: rest }) ∨
    (∃ rest : List Nat, s.rst = 0 :: rest ∧ sampleRst s = .ended (takeReset { s with rst := rest })) := by
  unfold sampleRst
  split
  · rename_i h; exact .inl ⟨h, rfl⟩
  · rename_i rest h; exact .inr (.inr ⟨rest, h, rfl⟩)
  · rename_i n rest h; exact .inr (.inl ⟨n, rest, h, rfl⟩)

/-- All that an exchange can do: it returns and the bytes stand in `ret`, it fails, or a reset is taken before it. -/
theorem exchange_cases (tx : Bytes) (s : State) :
    (∃ (r : List Nat) (rx : Bytes), s.rst.head? ≠ some 0 ∧ r.length = s.rst.length ∧ drawn tx.length s = some rx ∧
      exchange tx s = .done { logXchg tx (some rx) { s with rst := r } with ret := rx }) ∨
    (∃ r : List Nat, s.rst.head? ≠ some 0 ∧ r.length = s.rst.length ∧ drawn tx.length s = none ∧
      exchange tx s = .ended (transportError (logXchg tx none { s with rst := r }))) ∨
    (∃ rest : List Nat, s.rst = 0 :: rest ∧ exchange tx s = .ended (takeReset { s with rst := rest })) := by
  unfold exchange sampleRst
  split
  · rename_i h
    cases hd : drawn tx.length s with
    | none => exact .inr (.inl ⟨[], by simp [h], by simp [h], rfl, by simp [Port.bind, hd, ← h]⟩)
    | some rx => exact .inl ⟨[], rx, by simp [h], by simp [h], rfl, by simp [Port.bind, hd, ← h]⟩
  · rename_i rest h
    exact .inr (.inr ⟨rest, h, rfl⟩)
  · rename_i n rest h
    have hc : ∀ r, drawn tx.length { s with rst := r } = drawn tx.length s := fun _ => rfl
    cases hd : drawn tx.length s with
    | none => exact .inr (.inl ⟨n :: rest, by simp [h], by simp [h], rfl, by simp [Port.bind, hc, hd]⟩)
    | some rx => exact .inl ⟨n :: rest, rx, by simp [h], by simp [h], rfl, by simp [Port.bind, hc, hd]⟩

/-- An exchange that returns, where no reset is to come. -/
theorem exchange_some {tx rx : Bytes} {s : State} (h : s.rst = []) (ha : answerAt 0 tx.length s = some rx) :
    exchange tx s = .done (s.afterExchanges [tx]) := by
  rw [exchange, sampleRst_nil h, Port.bind, drawn_eq_answerAt, ha]
  simp [State.afterExchanges, State.sent, sentFrom, ha, logXchg]

/-- An exchange that fails, where no reset is to come. -/
theorem exchange_none {tx : Bytes} {s : State} (h : s.rst = []) (ha : answerAt 0 tx.length s = none) :
    exchange tx s = .ended (s.afterExchanges [tx]).transportFailed := by
  rw [exchange, sampleRst_nil h, Port.bind, drawn_eq_answerAt, ha]
  simp [State.afterExchanges, State.sent, sentFrom, ha, logXchg, transportError, publish, State.transportFailed,
    State.faulted, State.responded]

end Sys2Proof.Machine
end

