-- ==== Sys2Proof/Laws/PerInstr.lean ====
section
/-!
SUPPORT. One lemma per instruction: its encoding carries, where its format has the selecting byte, the code that the
opcode tables of 30_encoding.md (R87, R90, R94, R112) give its row.
-/

namespace Sys2Proof.Laws

open Sys2Proof

/-- The index of the selecting byte: byte 0 of a HOST_REQ record and of a chip command, byte 1 of an ISO frame. -/
def selectorIndex : Format → Nat
  | .hostReq | .chipCmd => 0
  | .isoReq | .isoRaw => 1

/-- The selecting byte of a row: its op (R87), its ISO code (R94; RAW carries any code) or its chip opcode (R90). -/
def selectingCode : Instr → Byte
  | .transceive _ => 0x01
  | .isoCmd _ _ _ _ => 0x02
  | .memRead _ _ _ => 0x03
  | .memWrite _ _ _ => 0x04
  | .chipIdle => 0x05
  | .isoRaw _ _ _ _ => 0x06
  | .regWrite _ _ => 0x10
  | .regOr _ _ => 0x11
  | .regAnd _ _ => 0x12
  | .regRead _ => 0x13
  | .eepromRead _ _ => 0x14
  | .inventory => 0x01
  | .stayQuiet _ _ => 0x02
  | .readSingleBlock _ _ _ => 0x20
  | .writeSingleBlock _ _ _ _ => 0x21
  | .lockBlock _ _ _ => 0x22
  | .readMultipleBlock _ _ _ _ => 0x23
  | .writeMultipleBlock _ _ _ _ _ => 0x24
  | .select _ _ => 0x25
  | .resetToReady _ _ => 0x26
  | .writeAfi _ _ _ => 0x27
  | .lockAfi _ _ => 0x28
  | .writeDsfid _ _ _ => 0x29
  | .lockDsfid _ _ => 0x2A
  | .getSystemInformation _ _ => 0x2B
  | .getMultipleBlockSecurityStatus _ _ _ _ => 0x2C
  | .vendorC0 _ _ _ => 0xC0
  | .vendorC1 _ _ _ => 0xC1
  | .vendorC2 _ _ _ => 0xC2
  | .vendorC3 _ _ _ => 0xC3
  | .vendorC4 _ _ _ => 0xC4
  | .raw code _ _ _ => code
  | .writeRegister _ _ => 0x00
  | .writeRegisterOrMask _ _ => 0x01
  | .writeRegisterAndMask _ _ => 0x02
  | .readRegister _ => 0x04
  | .readEeprom _ _ => 0x07
  | .sendData _ => 0x09
  | .readData => 0x0A

/-- The selecting byte stands where the format has it. -/
def SelectingByte.Statement (i : Instr) : Prop :=
  (encode i).2[selectorIndex (encode i).1]? = some (selectingCode i)

theorem SelectingByte.transceive (frame : Bytes) :
    SelectingByte.Statement (.transceive frame) := rfl
theorem SelectingByte.isoCmd (cmd flags : Byte) (uid : Option Uid) (args : IsoArgs) :
    SelectingByte.Statement (.isoCmd cmd flags uid args) := rfl
theorem SelectingByte.memRead (tag : TagRec) (offset length : Half) :
    SelectingByte.Statement (.memRead tag offset length) := rfl
theorem SelectingByte.memWrite (tag : TagRec) (offset : Half) (data : Bytes) :
    SelectingByte.Statement (.memWrite tag offset data) := rfl
theorem SelectingByte.chipIdle :
    SelectingByte.Statement (.chipIdle) := rfl
theorem SelectingByte.isoRaw (code flags : Byte) (uid : Option Uid) (raw : Bytes) :
    SelectingByte.Statement (.isoRaw code flags uid raw) := rfl
theorem SelectingByte.regWrite (addr : Byte) (value : Word) :
    SelectingByte.Statement (.regWrite addr value) := rfl
theorem SelectingByte.regOr (addr : Byte) (mask : Word) :
    SelectingByte.Statement (.regOr addr mask) := rfl
theorem SelectingByte.regAnd (addr : Byte) (mask : Word) :
    SelectingByte.Statement (.regAnd addr mask) := rfl
theorem SelectingByte.regRead (addr : Byte) :
    SelectingByte.Statement (.regRead addr) := rfl
theorem SelectingByte.eepromRead (addr len : Byte) :
    SelectingByte.Statement (.eepromRead addr len) := rfl
theorem SelectingByte.inventory :
    SelectingByte.Statement (.inventory) := rfl
theorem SelectingByte.stayQuiet (flags : Byte) (uid : Option Uid) :
    SelectingByte.Statement (.stayQuiet flags uid) := rfl
theorem SelectingByte.readSingleBlock (flags : Byte) (uid : Option Uid) (block : Byte) :
    SelectingByte.Statement (.readSingleBlock flags uid block) := rfl
theorem SelectingByte.writeSingleBlock (flags : Byte) (uid : Option Uid) (block : Byte) (data : Bytes) :
    SelectingByte.Statement (.writeSingleBlock flags uid block data) := rfl
theorem SelectingByte.lockBlock (flags : Byte) (uid : Option Uid) (block : Byte) :
    SelectingByte.Statement (.lockBlock flags uid block) := rfl
theorem SelectingByte.readMultipleBlock (flags : Byte) (uid : Option Uid) (first : Byte) (count : Nat) :
    SelectingByte.Statement (.readMultipleBlock flags uid first count) := rfl
theorem SelectingByte.writeMultipleBlock (flags : Byte) (uid : Option Uid) (first : Byte) (count : Nat) (data : Bytes) :
    SelectingByte.Statement (.writeMultipleBlock flags uid first count data) := rfl
theorem SelectingByte.select (flags : Byte) (uid : Option Uid) :
    SelectingByte.Statement (.select flags uid) := rfl
theorem SelectingByte.resetToReady (flags : Byte) (uid : Option Uid) :
    SelectingByte.Statement (.resetToReady flags uid) := rfl
theorem SelectingByte.writeAfi (flags : Byte) (uid : Option Uid) (afi : Byte) :
    SelectingByte.Statement (.writeAfi flags uid afi) := rfl
theorem SelectingByte.lockAfi (flags : Byte) (uid : Option Uid) :
    SelectingByte.Statement (.lockAfi flags uid) := rfl
theorem SelectingByte.writeDsfid (flags : Byte) (uid : Option Uid) (dsfid : Byte) :
    SelectingByte.Statement (.writeDsfid flags uid dsfid) := rfl
theorem SelectingByte.lockDsfid (flags : Byte) (uid : Option Uid) :
    SelectingByte.Statement (.lockDsfid flags uid) := rfl
theorem SelectingByte.getSystemInformation (flags : Byte) (uid : Option Uid) :
    SelectingByte.Statement (.getSystemInformation flags uid) := rfl
theorem SelectingByte.getMultipleBlockSecurityStatus (flags : Byte) (uid : Option Uid) (first : Byte) (count : Nat) :
    SelectingByte.Statement (.getMultipleBlockSecurityStatus flags uid first count) := rfl
theorem SelectingByte.vendorC0 (flags : Byte) (uid : Option Uid) (raw : Bytes) :
    SelectingByte.Statement (.vendorC0 flags uid raw) := rfl
theorem SelectingByte.vendorC1 (flags : Byte) (uid : Option Uid) (raw : Bytes) :
    SelectingByte.Statement (.vendorC1 flags uid raw) := rfl
theorem SelectingByte.vendorC2 (flags : Byte) (uid : Option Uid) (raw : Bytes) :
    SelectingByte.Statement (.vendorC2 flags uid raw) := rfl
theorem SelectingByte.vendorC3 (flags : Byte) (uid : Option Uid) (raw : Bytes) :
    SelectingByte.Statement (.vendorC3 flags uid raw) := rfl
theorem SelectingByte.vendorC4 (flags : Byte) (uid : Option Uid) (raw : Bytes) :
    SelectingByte.Statement (.vendorC4 flags uid raw) := rfl
theorem SelectingByte.raw (code flags : Byte) (uid : Option Uid) (raw : Bytes) :
    SelectingByte.Statement (.raw code flags uid raw) := rfl
theorem SelectingByte.writeRegister (addr : Byte) (value : Word) :
    SelectingByte.Statement (.writeRegister addr value) := rfl
theorem SelectingByte.writeRegisterOrMask (addr : Byte) (mask : Word) :
    SelectingByte.Statement (.writeRegisterOrMask addr mask) := rfl
theorem SelectingByte.writeRegisterAndMask (addr : Byte) (mask : Word) :
    SelectingByte.Statement (.writeRegisterAndMask addr mask) := rfl
theorem SelectingByte.readRegister (addr : Byte) :
    SelectingByte.Statement (.readRegister addr) := rfl
theorem SelectingByte.readEeprom (addr len : Byte) :
    SelectingByte.Statement (.readEeprom addr len) := rfl
theorem SelectingByte.sendData (frame : Bytes) :
    SelectingByte.Statement (.sendData frame) := rfl
theorem SelectingByte.readData :
    SelectingByte.Statement (.readData) := rfl

end Sys2Proof.Laws
end

