-- ==== Sys2Proof/Laws/Transceive.lean ====
section
/-!
SUPPORT. The chip port's operations, the states of a transceive and runs of the sequencer, each said once where no
reset is to come (`rst = []`), in the terms of Safety.lean.
-/

namespace Sys2Proof.Machine

open Sys2Proof

/-! ## Runs -/

theorem unitStep_nil {s : State} (h : s.rst = []) : unitStep s = seqStep s := by
  rw [unitStep, sampleRst_nil h, Port.andThen]

@[simp] theorem runSeq_zero (s : State) : runSeq 0 s = s := rfl

theorem runSeq_succ {s : State} (n : Nat) (h : s.running = true) : runSeq (n + 1) s = runSeq n (unitStep s) := by
  simp [runSeq, h]

theorem runSeq_idle {s : State} (h : s.running = false) : ∀ n : Nat, runSeq n s = s
  | 0 => rfl
  | n + 1 => by simp [runSeq, h]

/-- A run in two parts. -/
theorem runSeq_add : ∀ (a b : Nat) (s : State), runSeq (a + b) s = runSeq b (runSeq a s)
  | 0, b, s => by simp
  | a + 1, b, s => by
    rw [Nat.succ_add]
    cases h : s.running with
    | true => rw [runSeq_succ _ h, runSeq_succ _ h, runSeq_add a b]
    | false => simp [runSeq_idle h]

/-- One step of a longer run. -/
theorem runSeq_step {s : State} {n : Nat} (hn : 0 < n) (hr : s.running = true) (h : s.rst = []) :
    runSeq n s = runSeq (n - 1) (seqStep s) := by
  obtain ⟨m, rfl⟩ := Nat.exists_eq_succ_of_ne_zero (Nat.pos_iff_ne_zero.1 hn)
  rw [Nat.succ_eq_add_one, runSeq_succ _ hr, unitStep_nil h, Nat.add_sub_cancel]

/-- What every step of the unit keeps, a run keeps. -/
theorem runSeq_keeps {P : State → Prop} (h : ∀ s, P s → s.running = true → P (unitStep s)) :
    ∀ (n : Nat) (s : State), P s → P (runSeq n s)
  | 0, _, hs => hs
  | n + 1, s, hs => by
    cases hr : s.running with
    | true => rw [runSeq_succ n hr]; exact runSeq_keeps h n _ (h s hs hr)
    | false => rw [runSeq_idle hr]; exact hs

/-! ## The chip port -/

/-- All that a command without a response can do: its exchange returns and its effect is recorded, or the exchange
ends the request. -/
theorem command_cases (i : Instr) (eff : List (Nat × ChipReg) → List (Nat × ChipReg)) (s : State) :
    (∃ t : State, exchange (encode i).2 s = .done t ∧ command i eff s = .done { t with chip_img := eff t.chip_img }) ∨
    (∃ t : State, exchange (encode i).2 s = .ended t ∧ command i eff s = .ended t) := by
  unfold command
  cases h : exchange (encode i).2 s with
  | done t => exact .inl ⟨t, rfl, rfl⟩
  | ended t => exact .inr ⟨t, rfl, rfl⟩

/-- All that a command with a response can do: both exchanges return, one of them ends the request, or there is
nothing to read. -/
theorem query_cases (i : Instr) (n : Nat) (s : State) :
    (∃ t : State, exchange (encode i).2 s = .ended t ∧ query i n s = .ended t) ∨
    (∃ t : State, exchange (encode i).2 s = .done t ∧ n = 0 ∧ query i n s = .done { t with ret := [] }) ∨
    (∃ t u : State, exchange (encode i).2 s = .done t ∧ n ≠ 0 ∧ exchange (rep Config.fillByte n) t = .done u ∧
      query i n s = .done u) ∨
    (∃ t u : State, exchange (encode i).2 s = .done t ∧ n ≠ 0 ∧ exchange (rep Config.fillByte n) t = .ended u ∧
      query i n s = .ended u) := by
  unfold query
  cases h : exchange (encode i).2 s with
  | ended t => exact .inl ⟨t, rfl, rfl⟩
  | done t =>
    by_cases hn : n = 0
    · exact .inr (.inl ⟨t, rfl, hn, if_pos hn⟩)
    · cases h2 : exchange (rep Config.fillByte n) t with
      | done u => exact .inr (.inr (.inl ⟨t, u, rfl, hn, h2, (if_neg hn).trans h2⟩))
      | ended u => exact .inr (.inr (.inr ⟨t, u, rfl, hn, h2, (if_neg hn).trans h2⟩))

theorem allReturn_one (tx : Bytes) (s : State) : s.allReturn [tx] = (answerAt 0 tx.length s).isSome := by
  simp [State.allReturn, State.sent, sentFrom]

theorem allReturn_two (a b : Bytes) (s : State) :
    s.allReturn [a, b] = ((answerAt 0 a.length s).isSome && (answerAt 1 b.length s).isSome) := by
  simp [State.allReturn, State.sent, sentFrom]

theorem command_eq (i : Instr) (eff : List (Nat × ChipReg) → List (Nat × ChipReg)) {s : State} (h : s.rst = []) :
    command i eff s = if s.allReturn [(encode i).2]
      then .done { s.afterExchanges [(encode i).2] with chip_img := eff s.chip_img }
      else .ended (s.afterExchanges [(encode i).2]).transportFailed := by
  rw [allReturn_one, command]
  cases ha : answerAt 0 (encode i).2.length s with
  | none => rw [exchange_none h ha]; rfl
  | some rx => rw [exchange_some h ha]; rfl

theorem query_eq (i : Instr) {n : Nat} (hn : n ≠ 0) {s : State} (h : s.rst = []) :
    query i n s = if s.allReturn [(encode i).2, rep Config.fillByte n]
      then .done (s.afterExchanges [(encode i).2, rep Config.fillByte n])
      else .ended (s.afterExchanges (triedFrom 0 s [(encode i).2, rep Config.fillByte n])).transportFailed := by
  have hl : (rep Config.fillByte n).length = n := by simp [rep]
  rw [allReturn_two, query, hl]
  cases ha : answerAt 0 (encode i).2.length s with
  | none => rw [exchange_none h ha]; simp [Port.bind, triedFrom, ha]
  | some rx =>
    have h1 : (s.afterExchanges [(encode i).2]).rst = [] := h
    have h2 : answerAt 0 (rep Config.fillByte n).length (s.afterExchanges [(encode i).2]) = answerAt 1 n s := by
      rw [answerAt_afterExchanges, hl]; rfl
    have h3 : s.afterExchanges [(encode i).2, rep Config.fillByte n] =
        (s.afterExchanges [(encode i).2]).afterExchanges [rep Config.fillByte n] :=
      afterExchanges_append [(encode i).2] [rep Config.fillByte n] s
    rw [exchange_some h ha, Port.bind, if_neg hn]
    cases hb : answerAt 1 n s with
    | none => rw [exchange_none h1 (h2.trans hb)]; simp [triedFrom, ha, hl, hb, h3]
    | some rx' => rw [exchange_some h1 (h2.trans hb), ← h3]; rfl

theorem regWrite_eq (a : Byte) (v : Word) {s : State} (h : s.rst = []) :
    regWrite a v s = if s.allReturn [[0x00, a] ++ le32 v]
      then .done { s.afterExchanges [[0x00, a] ++ le32 v] with chip_img := chipRegWrite a v s.chip_img }
      else .ended (s.afterExchanges [[0x00, a] ++ le32 v]).transportFailed := command_eq (.writeRegister a v) _ h

theorem regOr_eq (a : Byte) (m : Word) {s : State} (h : s.rst = []) :
    regOr a m s = if s.allReturn [[0x01, a] ++ le32 m]
      then .done { s.afterExchanges [[0x01, a] ++ le32 m] with chip_img := chipRegOr a m s.chip_img }
      else .ended (s.afterExchanges [[0x01, a] ++ le32 m]).transportFailed := command_eq (.writeRegisterOrMask a m) _ h

theorem regAnd_eq (a : Byte) (m : Word) {s : State} (h : s.rst = []) :
    regAnd a m s = if s.allReturn [[0x02, a] ++ le32 m]
      then .done { s.afterExchanges [[0x02, a] ++ le32 m] with chip_img := chipRegAnd a m s.chip_img }
      else .ended (s.afterExchanges [[0x02, a] ++ le32 m]).transportFailed :=
  command_eq (.writeRegisterAndMask a m) _ h

theorem regRead_eq (a : Byte) {s : State} (h : s.rst = []) :
    regRead a s = if s.allReturn (readTx a) then .done (s.afterExchanges (readTx a))
      else .ended (s.afterExchanges (triedFrom 0 s (readTx a))).transportFailed :=
  query_eq (.readRegister a) (by decide) h

theorem eepromRead_eq (a n : Byte) (hn : n ≠ 0) {s : State} (h : s.rst = []) :
    eepromRead a n s = if s.allReturn [[0x07, a, n], List.replicate n.toNat 0xFF]
      then .done (s.afterExchanges [[0x07, a, n], List.replicate n.toNat 0xFF])
      else .ended (s.afterExchanges (triedFrom 0 s [[0x07, a, n], List.replicate n.toNat 0xFF])).transportFailed :=
  query_eq (.readEeprom a n) (fun h => hn (BitVec.eq_of_toNat_eq h)) h

theorem sendData_eq (f : Bytes) {s : State} (h : s.rst = []) :
    sendData f s = if s.allReturn [[0x09, 0x00] ++ f] then .done (s.afterExchanges [[0x09, 0x00] ++ f])
      else .ended (s.afterExchanges [[0x09, 0x00] ++ f]).transportFailed := by
  have he : (encode (.sendData f)).2 = [0x09, 0x00] ++ f := rfl
  rw [allReturn_one, sendData, he]
  cases ha : answerAt 0 ([0x09, 0x00] ++ f).length s with
  | none => rw [exchange_none h ha]; rfl
  | some rx => rw [exchange_some h ha]; rfl

theorem readData_eq {n : Nat} (hn : n ≠ 0) {s : State} (h : s.rst = []) :
    readData n s = if s.allReturn [[0x0A, 0x00], List.replicate n 0xFF]
      then .done (s.afterExchanges [[0x0A, 0x00], List.replicate n 0xFF])
      else .ended (s.afterExchanges (triedFrom 0 s [[0x0A, 0x00], List.replicate n 0xFF])).transportFailed :=
  query_eq .readData hn h

/-- Outside FAULT a chip-port operation run alone is that operation. -/
theorem runAlone_of {op : State → Port} {s : State} (h : s.st ≠ .fault) : runAlone op s = (op s).state := if_neg h

/-- The bytes a register read leaves in `ret` are the value's. -/
theorem ret_afterExchanges_readTx (a : Byte) {s : State} (h : s.allReturn (readTx a) = true) :
    u32le (s.afterExchanges (readTx a)).ret = valueAt 1 s := by
  rw [readTx, allReturn_two, Bool.and_eq_true] at h
  obtain ⟨h1, h2⟩ := h
  obtain ⟨x, hx⟩ := Option.isSome_iff_exists.1 h1
  obtain ⟨y, hy⟩ := Option.isSome_iff_exists.1 h2
  simp only [fillTx, List.length_cons, List.length_nil] at hy hx
  simp [State.afterExchanges, State.sent, sentFrom, readTx, fillTx, hx, hy, valueAt]

/-- `SetMode(MODE_IDLE)`. -/
theorem setMode_idle_eq {s : State} (h : s.rst = []) :
    setMode Config.modeIdle s = if s.allReturn [modeAndTx]
      then .done { s.afterExchanges [modeAndTx] with chip_img := idleImg s.chip_img }
      else .ended (s.afterExchanges [modeAndTx]).transportFailed := by
  have := regAnd_eq 0x00 0xFFFFFFF8 h
  rw [show ([0x02, 0x00] : Bytes) ++ le32 0xFFFFFFF8 = modeAndTx from by decide] at this
  rw [setMode, show regAnd Config.regSystemConfig (~~~Config.commandMask) s = _ from this]
  split <;> rfl

/-! ## The registers a transceive moves

Every state of a transceive is the state before it, after some exchanges, with these registers. -/

structure XRegs where
  st : St
  txf : Bytes
  smp : Nat
  irq : Word
  ts : BitVec 3
  rxn : BitVec 9
  rxb : Bytes
  tflags : Byte
  tpayload : Bytes
  now : Nat
  img : List (Nat × ChipReg)
  deriving DecidableEq, Repr

def State.withX (s : State) (x : XRegs) : State :=
  { s with
    st := x.st, txf := x.txf, smp := x.smp, irq := x.irq, ts := x.ts, rxn := x.rxn, rxb := x.rxb
    tflags := x.tflags, tpayload := x.tpayload, now := x.now, chip_img := x.img }

@[simp] theorem withX_st (s : State) (x : XRegs) : (s.withX x).st = x.st := rfl
@[simp] theorem withX_rst (s : State) (x : XRegs) : (s.withX x).rst = s.rst := rfl
@[simp] theorem withX_rq (s : State) (x : XRegs) : (s.withX x).rq = s.rq := rfl
@[simp] theorem withX_fault (s : State) (x : XRegs) : (s.withX x).fault = s.fault := rfl
@[simp] theorem withX_ret (s : State) (x : XRegs) : (s.withX x).ret = s.ret := rfl
@[simp] theorem withX_img (s : State) (x : XRegs) : (s.withX x).chip_img = x.img := rfl
@[simp] theorem afterExchanges_rst (s : State) (l : List Bytes) : (s.afterExchanges l).rst = s.rst := rfl
@[simp] theorem afterExchanges_fault (s : State) (l : List Bytes) : (s.afterExchanges l).fault = s.fault := rfl
@[simp] theorem afterExchanges_rq (s : State) (l : List Bytes) : (s.afterExchanges l).rq = s.rq := rfl

theorem withX_allReturn (s : State) (x : XRegs) (l : List Bytes) : (s.withX x).allReturn l = s.allReturn l :=
  allReturn_congr (s := s.withX x) (t := s) rfl rfl l

theorem withX_valueAt (s : State) (x : XRegs) (k : Nat) : valueAt k (s.withX x) = valueAt k s :=
  valueAt_congr (s := s.withX x) (t := s) rfl rfl k

theorem withX_afterExchanges (s : State) (x : XRegs) (l : List Bytes) :
    (s.withX x).afterExchanges l = (s.afterExchanges l).withX x := by
  simp only [State.afterExchanges, State.sent, sentFrom_congr (s := s.withX x) (t := s) rfl rfl]
  rfl

theorem withX_running {s : State} {x : XRegs} (h : x.st ≠ .ready ∧ x.st ≠ .done ∧ x.st ≠ .fault) :
    (s.withX x).running = true := by
  obtain ⟨h1, h2, h3⟩ := h
  simp [State.running, State.busy, h1, h2, h3]

variable {s : State} {x : XRegs}

/-- X_CLR (41_transceive.md R141). -/
theorem xClr_ok (hr : s.rst = []) (h : s.allReturn [clearIrqTx] = true) :
    xClr (s.withX x) = (s.afterExchanges [clearIrqTx]).withX
      { x with st := .xMode, img := chipRegWrite 0x03 0x000FFFFF x.img } := by
  have := regWrite_eq 0x03 0x000FFFFF (s := s.withX x) hr
  rw [show ([0x00, 0x03] : Bytes) ++ le32 0x000FFFFF = clearIrqTx from by decide, withX_allReturn, h, if_pos rfl,
    withX_afterExchanges] at this
  rw [xClr, clearIrq, show regWrite Config.regIrqClear Config.irqClearAll (s.withX x) = _ from this]
  rfl

/-- X_MODE (R142). -/
theorem xMode_ok (hr : s.rst = []) (h : s.allReturn [modeAndTx, modeOrTx] = true) :
    xMode (s.withX x) = (s.afterExchanges [modeAndTx, modeOrTx]).withX
      { x with st := .xChk, img := chipRegOr 0x00 0x00000003 (idleImg x.img) } := by
  rw [show [modeAndTx, modeOrTx] = [modeAndTx] ++ [modeOrTx] from rfl, allReturn_append, Bool.and_eq_true] at h
  have h1 := regAnd_eq 0x00 0xFFFFFFF8 (s := s.withX x) hr
  rw [show ([0x02, 0x00] : Bytes) ++ le32 0xFFFFFFF8 = modeAndTx from by decide, withX_allReturn, h.1, if_pos rfl,
    withX_afterExchanges] at h1
  have h2 := regOr_eq 0x00 0x00000003 (s := (s.afterExchanges [modeAndTx]).withX { x with img := idleImg x.img }) hr
  rw [show ([0x01, 0x00] : Bytes) ++ le32 0x00000003 = modeOrTx from by decide, withX_allReturn, h.2, if_pos rfl,
    withX_afterExchanges, ← afterExchanges_append] at h2
  rw [xMode, setMode, show regAnd Config.regSystemConfig (~~~Config.commandMask) (s.withX x) = _ from h1, Port.bind,
    if_neg (by decide)]
  exact congrArg (fun p : Port => p.andThen fun s => { s with st := .xChk }) h2

/-- A register read, and what stands in `ret` after it. -/
theorem regRead_ok (a : Byte) (hr : s.rst = []) (h : s.allReturn (readTx a) = true) :
    regRead a (s.withX x) = .done ((s.afterExchanges (readTx a)).withX x) ∧
      u32le ((s.afterExchanges (readTx a)).withX x).ret = valueAt 1 s := by
  refine ⟨?_, ret_afterExchanges_readTx a h⟩
  rw [regRead_eq a (show (s.withX x).rst = [] from hr), withX_allReturn, h, if_pos rfl, withX_afterExchanges]

/-- X_CHK (R143, R144), where the RF_STATUS read shows WAIT_TRANSMIT. -/
theorem xChk_ok (hr : s.rst = []) (h : s.allReturn (readTx 0x1D) = true)
    (hv : (valueAt 1 s).extractLsb' 24 3 = 1) :
    xChk (s.withX x) = (s.afterExchanges (readTx 0x1D)).withX { x with st := .xSend, ts := 1 } := by
  obtain ⟨h1, h2⟩ := regRead_ok (x := x) 0x1D hr h
  rw [xChk, show regRead Config.regRfStatus (s.withX x) = _ from h1, Port.andThen, h2,
    show bitField 3 Config.tsLsb (valueAt 1 s) = 1 from hv]
  rfl

/-- X_SEND (R146). -/
theorem xSend_ok (hr : s.rst = []) (h : s.allReturn [[0x09, 0x00] ++ x.txf] = true) :
    xSend (s.withX x) = (s.afterExchanges [[0x09, 0x00] ++ x.txf]).withX { x with st := .xASample, smp := 0 } := by
  rw [xSend, sendData_eq _ (show (s.withX x).rst = [] from hr), withX_allReturn]
  rw [show (s.withX x).txf = x.txf from rfl, h, if_pos rfl, withX_afterExchanges]
  rfl

/-- A sample of phase A that misses, not the last (R148). -/
theorem xASample_miss (hr : s.rst = []) (h : s.allReturn (readTx 0x02) = true)
    (hv : valueAt 1 s &&& 0x00004000 = 0) (hs : x.smp + 1 ≠ 2) :
    xASample (s.withX x) = (s.afterExchanges (readTx 0x02)).withX
      { x with st := .xAWait, smp := x.smp + 1, irq := valueAt 1 s } := by
  obtain ⟨h1, h2⟩ := regRead_ok (x := x) 0x02 hr h
  rw [xASample, show regRead Config.regIrqStatus (s.withX x) = _ from h1, Port.andThen, h2]
  unfold aSampled
  exact (if_neg (not_not_intro hv)).trans (if_neg hs)

/-- A sample of phase A that hits (R148). -/
theorem xASample_hit (hr : s.rst = []) (h : s.allReturn (readTx 0x02) = true)
    (hv : valueAt 1 s &&& 0x00004000 ≠ 0) :
    xASample (s.withX x) = (s.afterExchanges (readTx 0x02)).withX
      { x with st := .xBSample, smp := 0, irq := valueAt 1 s } := by
  obtain ⟨h1, h2⟩ := regRead_ok (x := x) 0x02 hr h
  rw [xASample, show regRead Config.regIrqStatus (s.withX x) = _ from h1, Port.andThen, h2]
  unfold aSampled
  exact if_pos hv

/-- The last sample of phase A misses: the timeout (R148, R150). -/
theorem xASample_timeout (hr : s.rst = []) (h : s.allReturn (readTx 0x02) = true)
    (hv : valueAt 1 s &&& 0x00004000 = 0) (hs : x.smp + 1 = 2) :
    xASample (s.withX x) = (s.afterExchanges (readTx 0x02)).withX
      { x with st := .xRestore, smp := 2, irq := valueAt 1 s, tflags := 0xFF, tpayload := [] } := by
  obtain ⟨h1, h2⟩ := regRead_ok (x := x) 0x02 hr h
  rw [xASample, show regRead Config.regIrqStatus (s.withX x) = _ from h1, Port.andThen, h2]
  unfold aSampled
  rw [← hs]
  exact (if_neg (not_not_intro hv)).trans (if_pos hs)

/-- A sample of phase B that misses, not the last (R152). -/
theorem xBSample_miss (hr : s.rst = []) (h : s.allReturn (readTx 0x02) = true)
    (hv : valueAt 1 s &&& 0x00000001 = 0) (hs : x.smp + 1 ≠ 51) :
    xBSample (s.withX x) = (s.afterExchanges (readTx 0x02)).withX
      { x with st := .xBWait, smp := x.smp + 1, irq := valueAt 1 s } := by
  obtain ⟨h1, h2⟩ := regRead_ok (x := x) 0x02 hr h
  rw [xBSample, show regRead Config.regIrqStatus (s.withX x) = _ from h1, Port.andThen, h2]
  unfold bSampled
  exact (if_neg (not_not_intro hv)).trans (if_neg hs)

/-- A sample of phase B that hits (R152). -/
theorem xBSample_hit (hr : s.rst = []) (h : s.allReturn (readTx 0x02) = true)
    (hv : valueAt 1 s &&& 0x00000001 ≠ 0) :
    xBSample (s.withX x) = (s.afterExchanges (readTx 0x02)).withX
      { x with st := .xRxstat, smp := x.smp + 1, irq := valueAt 1 s } := by
  obtain ⟨h1, h2⟩ := regRead_ok (x := x) 0x02 hr h
  rw [xBSample, show regRead Config.regIrqStatus (s.withX x) = _ from h1, Port.andThen, h2]
  unfold bSampled
  exact if_pos hv

/-- The last sample of phase B misses: the timeout (R152, R153). -/
theorem xBSample_timeout (hr : s.rst = []) (h : s.allReturn (readTx 0x02) = true)
    (hv : valueAt 1 s &&& 0x00000001 = 0) (hs : x.smp + 1 = 51) :
    xBSample (s.withX x) = (s.afterExchanges (readTx 0x02)).withX
      { x with st := .xRestore, smp := 51, irq := valueAt 1 s, tflags := 0xFF, tpayload := [] } := by
  obtain ⟨h1, h2⟩ := regRead_ok (x := x) 0x02 hr h
  rw [xBSample, show regRead Config.regIrqStatus (s.withX x) = _ from h1, Port.andThen, h2]
  unfold bSampled
  rw [← hs]
  exact (if_neg (not_not_intro hv)).trans (if_pos hs)

/-- X_RXSTAT with a count of 0: the empty response (R154). -/
theorem xRxstat_empty (hr : s.rst = []) (h : s.allReturn (readTx 0x13) = true)
    (hv : (valueAt 1 s).extractLsb' 0 9 = (0 : BitVec 9)) :
    xRxstat (s.withX x) = (s.afterExchanges (readTx 0x13)).withX
      { x with st := .xRestore, rxn := 0, tflags := 0xFF, tpayload := [] } := by
  obtain ⟨h1, h2⟩ := regRead_ok (x := x) 0x13 hr h
  rw [xRxstat, show regRead Config.regRxStatus (s.withX x) = _ from h1, Port.andThen, h2,
    show bitField 9 Config.rxnLsb (valueAt 1 s) = 0 from hv]
  rfl

/-- X_RXSTAT with a count (R154). -/
theorem xRxstat_count (hr : s.rst = []) (h : s.allReturn (readTx 0x13) = true)
    (hv : (valueAt 1 s).extractLsb' 0 9 ≠ (0 : BitVec 9)) :
    xRxstat (s.withX x) = (s.afterExchanges (readTx 0x13)).withX
      { x with st := .xRxdata, rxn := (valueAt 1 s).extractLsb' 0 9 } := by
  obtain ⟨h1, h2⟩ := regRead_ok (x := x) 0x13 hr h
  rw [xRxstat, show regRead Config.regRxStatus (s.withX x) = _ from h1, Port.andThen, h2,
    show bitField 9 Config.rxnLsb (valueAt 1 s) = (valueAt 1 s).extractLsb' 0 9 from rfl]
  exact if_neg hv

/-- X_RXDATA (R155, R156). -/
theorem xRxdata_ok (hr : s.rst = []) (hn : x.rxn ≠ 0)
    (h : s.allReturn [[0x0A, 0x00], List.replicate x.rxn.toNat 0xFF] = true) :
    xRxdata (s.withX x) = (s.afterExchanges [[0x0A, 0x00], List.replicate x.rxn.toNat 0xFF]).withX
      { x with
        st := .xRestore
        rxb := (answerAt 1 x.rxn.toNat s).getD []
        tflags := ((answerAt 1 x.rxn.toNat s).getD []).headD 0
        tpayload := ((answerAt 1 x.rxn.toNat s).getD []).tail } := by
  have hn' : x.rxn.toNat ≠ 0 := fun e => hn (BitVec.eq_of_toNat_eq e)
  have hret : (s.afterExchanges [[0x0A, 0x00], List.replicate x.rxn.toNat 0xFF]).ret =
      (answerAt 1 x.rxn.toNat s).getD [] := by
    rw [allReturn_two, Bool.and_eq_true] at h
    obtain ⟨a, ha⟩ := Option.isSome_iff_exists.1 h.1
    obtain ⟨b, hb⟩ := Option.isSome_iff_exists.1 h.2
    simp only [List.length_cons, List.length_nil, List.length_replicate] at ha hb
    simp [State.afterExchanges, State.sent, sentFrom, ha, hb]
  rw [xRxdata, show (s.withX x).rxn = x.rxn from rfl, readData_eq hn' (show (s.withX x).rst = [] from hr),
    withX_allReturn, h, if_pos rfl, withX_afterExchanges, Port.andThen, ← hret]
  rfl

/-- X_RESTORE (R158). -/
theorem xRestore_ok (hr : s.rst = []) (h : s.allReturn [modeAndTx] = true) :
    xRestore (s.withX x) = (s.afterExchanges [modeAndTx]).withX
      { x with st := returnState s.rq, img := idleImg x.img } := by
  rw [xRestore, setMode_idle_eq (show (s.withX x).rst = [] from hr), withX_allReturn, h, if_pos rfl,
    withX_afterExchanges]
  rfl

/-! ## One step of a run in a transceive -/

theorem run_step {t : State} (n : Nat) (hx : x.st ≠ .ready ∧ x.st ≠ .done ∧ x.st ≠ .fault) (hr : s.rst = [])
    (h : seqStep (s.withX x) = t) : runSeq (n + 1) (s.withX x) = runSeq n t := by
  rw [runSeq_succ n (withX_running hx), unitStep_nil (show (s.withX x).rst = [] from hr), h]

theorem run_xClr_ok (n : Nat) (hx : x.st = .xClr) (hr : s.rst = []) (h : s.allReturn [clearIrqTx] = true) :
    runSeq (n + 1) (s.withX x) = runSeq n ((s.afterExchanges [clearIrqTx]).withX
      { x with st := .xMode, img := chipRegWrite 0x03 0x000FFFFF x.img }) :=
  run_step n (by simp [hx]) hr ((by rw [seqStep, withX_st, hx] : seqStep (s.withX x) = xClr (s.withX x)).trans
    (xClr_ok hr h))

theorem run_xMode_ok (n : Nat) (hx : x.st = .xMode) (hr : s.rst = []) (h : s.allReturn [modeAndTx, modeOrTx] = true) :
    runSeq (n + 1) (s.withX x) = runSeq n ((s.afterExchanges [modeAndTx, modeOrTx]).withX
      { x with st := .xChk, img := chipRegOr 0x00 0x00000003 (idleImg x.img) }) :=
  run_step n (by simp [hx]) hr ((by rw [seqStep, withX_st, hx] : seqStep (s.withX x) = xMode (s.withX x)).trans
    (xMode_ok hr h))

theorem run_xChk_ok (n : Nat) (hx : x.st = .xChk) (hr : s.rst = []) (h : s.allReturn (readTx 0x1D) = true)
    (hv : (valueAt 1 s).extractLsb' 24 3 = 1) :
    runSeq (n + 1) (s.withX x) = runSeq n ((s.afterExchanges (readTx 0x1D)).withX { x with st := .xSend, ts := 1 }) :=
  run_step n (by simp [hx]) hr ((by rw [seqStep, withX_st, hx] : seqStep (s.withX x) = xChk (s.withX x)).trans
    (xChk_ok hr h hv))

theorem run_xSend_ok (n : Nat) (hx : x.st = .xSend) (hr : s.rst = []) (h : s.allReturn [[0x09, 0x00] ++ x.txf] = true) :
    runSeq (n + 1) (s.withX x) = runSeq n ((s.afterExchanges [[0x09, 0x00] ++ x.txf]).withX { x with st := .xASample, smp := 0 }) :=
  run_step n (by simp [hx]) hr ((by rw [seqStep, withX_st, hx] : seqStep (s.withX x) = xSend (s.withX x)).trans
    (xSend_ok hr h))

theorem run_xASample_miss (n : Nat) (hx : x.st = .xASample) (hr : s.rst = []) (h : s.allReturn (readTx 0x02) = true)
    (hv : valueAt 1 s &&& 0x00004000 = 0) (hs : x.smp + 1 ≠ 2) :
    runSeq (n + 1) (s.withX x) = runSeq n ((s.afterExchanges (readTx 0x02)).withX
      { x with st := .xAWait, smp := x.smp + 1, irq := valueAt 1 s }) :=
  run_step n (by simp [hx]) hr ((by rw [seqStep, withX_st, hx] : seqStep (s.withX x) = xASample (s.withX x)).trans
    (xASample_miss hr h hv hs))

theorem run_xASample_hit (n : Nat) (hx : x.st = .xASample) (hr : s.rst = []) (h : s.allReturn (readTx 0x02) = true)
    (hv : valueAt 1 s &&& 0x00004000 ≠ 0) :
    runSeq (n + 1) (s.withX x) = runSeq n ((s.afterExchanges (readTx 0x02)).withX
      { x with st := .xBSample, smp := 0, irq := valueAt 1 s }) :=
  run_step n (by simp [hx]) hr ((by rw [seqStep, withX_st, hx] : seqStep (s.withX x) = xASample (s.withX x)).trans
    (xASample_hit hr h hv))

theorem run_xASample_timeout (n : Nat) (hx : x.st = .xASample) (hr : s.rst = []) (h : s.allReturn (readTx 0x02) = true)
    (hv : valueAt 1 s &&& 0x00004000 = 0) (hs : x.smp + 1 = 2) :
    runSeq (n + 1) (s.withX x) = runSeq n ((s.afterExchanges (readTx 0x02)).withX
      { x with st := .xRestore, smp := 2, irq := valueAt 1 s, tflags := 0xFF, tpayload := [] }) :=
  run_step n (by simp [hx]) hr ((by rw [seqStep, withX_st, hx] : seqStep (s.withX x) = xASample (s.withX x)).trans
    (xASample_timeout hr h hv hs))

theorem run_xBSample_miss (n : Nat) (hx : x.st = .xBSample) (hr : s.rst = []) (h : s.allReturn (readTx 0x02) = true)
    (hv : valueAt 1 s &&& 0x00000001 = 0) (hs : x.smp + 1 ≠ 51) :
    runSeq (n + 1) (s.withX x) = runSeq n ((s.afterExchanges (readTx 0x02)).withX
      { x with st := .xBWait, smp := x.smp + 1, irq := valueAt 1 s }) :=
  run_step n (by simp [hx]) hr ((by rw [seqStep, withX_st, hx] : seqStep (s.withX x) = xBSample (s.withX x)).trans
    (xBSample_miss hr h hv hs))

theorem run_xBSample_hit (n : Nat) (hx : x.st = .xBSample) (hr : s.rst = []) (h : s.allReturn (readTx 0x02) = true)
    (hv : valueAt 1 s &&& 0x00000001 ≠ 0) :
    runSeq (n + 1) (s.withX x) = runSeq n ((s.afterExchanges (readTx 0x02)).withX
      { x with st := .xRxstat, smp := x.smp + 1, irq := valueAt 1 s }) :=
  run_step n (by simp [hx]) hr ((by rw [seqStep, withX_st, hx] : seqStep (s.withX x) = xBSample (s.withX x)).trans
    (xBSample_hit hr h hv))

theorem run_xBSample_timeout (n : Nat) (hx : x.st = .xBSample) (hr : s.rst = []) (h : s.allReturn (readTx 0x02) = true)
    (hv : valueAt 1 s &&& 0x00000001 = 0) (hs : x.smp + 1 = 51) :
    runSeq (n + 1) (s.withX x) = runSeq n ((s.afterExchanges (readTx 0x02)).withX
      { x with st := .xRestore, smp := 51, irq := valueAt 1 s, tflags := 0xFF, tpayload := [] }) :=
  run_step n (by simp [hx]) hr ((by rw [seqStep, withX_st, hx] : seqStep (s.withX x) = xBSample (s.withX x)).trans
    (xBSample_timeout hr h hv hs))

theorem run_xRxstat_empty (n : Nat) (hx : x.st = .xRxstat) (hr : s.rst = []) (h : s.allReturn (readTx 0x13) = true)
    (hv : (valueAt 1 s).extractLsb' 0 9 = (0 : BitVec 9)) :
    runSeq (n + 1) (s.withX x) = runSeq n ((s.afterExchanges (readTx 0x13)).withX
      { x with st := .xRestore, rxn := 0, tflags := 0xFF, tpayload := [] }) :=
  run_step n (by simp [hx]) hr ((by rw [seqStep, withX_st, hx] : seqStep (s.withX x) = xRxstat (s.withX x)).trans
    (xRxstat_empty hr h hv))

theorem run_xRxstat_count (n : Nat) (hx : x.st = .xRxstat) (hr : s.rst = []) (h : s.allReturn (readTx 0x13) = true)
    (hv : (valueAt 1 s).extractLsb' 0 9 ≠ (0 : BitVec 9)) :
    runSeq (n + 1) (s.withX x) = runSeq n ((s.afterExchanges (readTx 0x13)).withX
      { x with st := .xRxdata, rxn := (valueAt 1 s).extractLsb' 0 9 }) :=
  run_step n (by simp [hx]) hr ((by rw [seqStep, withX_st, hx] : seqStep (s.withX x) = xRxstat (s.withX x)).trans
    (xRxstat_count hr h hv))

theorem run_xRxdata_ok (n : Nat) (hx : x.st = .xRxdata) (hr : s.rst = []) (hn : x.rxn ≠ 0)
    (h : s.allReturn [[0x0A, 0x00], List.replicate x.rxn.toNat 0xFF] = true) :
    runSeq (n + 1) (s.withX x) = runSeq n ((s.afterExchanges [[0x0A, 0x00], List.replicate x.rxn.toNat 0xFF]).withX
      { x with
        st := .xRestore
        rxb := (answerAt 1 x.rxn.toNat s).getD []
        tflags := ((answerAt 1 x.rxn.toNat s).getD []).headD 0
        tpayload := ((answerAt 1 x.rxn.toNat s).getD []).tail }) :=
  run_step n (by simp [hx]) hr ((by rw [seqStep, withX_st, hx] : seqStep (s.withX x) = xRxdata (s.withX x)).trans
    (xRxdata_ok hr hn h))

theorem run_xRestore_ok (n : Nat) (hx : x.st = .xRestore) (hr : s.rst = []) (h : s.allReturn [modeAndTx] = true) :
    runSeq (n + 1) (s.withX x) = runSeq n ((s.afterExchanges [modeAndTx]).withX
      { x with st := returnState s.rq, img := idleImg x.img }) :=
  run_step n (by simp [hx]) hr ((by rw [seqStep, withX_st, hx] : seqStep (s.withX x) = xRestore (s.withX x)).trans
    (xRestore_ok hr h))

theorem run_xAWait (n : Nat) (hx : x.st = .xAWait) (hr : s.rst = []) :
    runSeq (n + 1) (s.withX x) = runSeq n (s.withX { x with st := .xASample, now := x.now + 1 }) :=
  run_step n (by simp [hx]) hr (by rw [seqStep, withX_st, hx]; rfl)

theorem run_xBWait (n : Nat) (hx : x.st = .xBWait) (hr : s.rst = []) :
    runSeq (n + 1) (s.withX x) = runSeq n (s.withX { x with st := .xBSample, now := x.now + 1 }) :=
  run_step n (by simp [hx]) hr (by rw [seqStep, withX_st, hx]; rfl)

end Sys2Proof.Machine
end

