-- ==== Sys2Proof/Laws/Run.lean ====
section
/-!
SUPPORT. A whole transceive: for each path of Safety.lean the run from X_CLR to the state after X_RESTORE, where no
reset is to come.
-/

namespace Sys2Proof.Machine

open Sys2Proof

/-- preparation and send: 4 steps -/
theorem prep_run (n : Nat) {s : State} {x : XRegs} (hx : x.st = .xClr) (hr : s.rst = [])
    (h : s.allReturn (startTx x.txf) = true) (hv : (valueAt 4 s).extractLsb' 24 3 = 1) :
    runSeq (n + 4) (s.withX x) = runSeq n ((s.afterExchanges (startTx x.txf)).withX
      { x with st := .xASample, smp := 0, ts := 1, img := preparedImg x.img }) := by
  have e : startTx x.txf = [clearIrqTx] ++ ([modeAndTx, modeOrTx] ++ (readTx 0x1D ++ [[0x09, 0x00] ++ x.txf])) := rfl
  rw [e] at h ⊢
  rw [allReturn_append, allReturn_append, allReturn_append, Bool.and_eq_true, Bool.and_eq_true, Bool.and_eq_true] at h
  obtain ⟨h1, h2, h3, h4⟩ := h
  rw [afterExchanges_append, afterExchanges_append, afterExchanges_append]
  refine Eq.trans (run_xClr_ok (n + 3) hx hr h1) ?_
  refine Eq.trans (run_xMode_ok (n + 2) rfl hr h2) ?_
  refine Eq.trans (run_xChk_ok (n + 1) rfl hr h3 ?_) ?_
  · rw [valueAt_afterExchanges, valueAt_afterExchanges]; exact hv
  refine Eq.trans (run_xSend_ok n rfl hr h4) ?_
  rfl

theorem irqTx_succ (n : Nat) : irqTx (n + 1) = readTx 0x02 ++ irqTx n := by simp [irqTx, List.replicate_succ]
theorem irqTx_length (n : Nat) : (irqTx n).length = 2 * n := by
  induction n with
  | zero => rfl
  | succ n ih => rw [irqTx_succ, List.length_append, ih]; simp [readTx]; omega

theorem irqTx_add (a b : Nat) : irqTx (a + b) = irqTx a ++ irqTx b := by
  induction a with
  | zero => simp [irqTx]
  | succ a ih => rw [Nat.succ_add, irqTx_succ, irqTx_succ, ih, List.append_assoc]

/-- phase A with a hit at sample j+1 -/
theorem phaseA_run (n : Nat) : ∀ (j : Nat) {s : State} {x : XRegs},
    x.st = .xASample → s.rst = [] → x.smp + j ≤ 1 →
    s.allReturn (irqTx (j + 1)) = true → (∀ a < j, valueAt (1 + 2 * a) s &&& 0x00004000 = 0) →
    valueAt (1 + 2 * j) s &&& 0x00004000 ≠ 0 →
    runSeq (n + (2 * j + 1)) (s.withX x) = runSeq n ((s.afterExchanges (irqTx (j + 1))).withX
      { x with st := .xBSample, smp := 0, irq := valueAt (1 + 2 * j) s, now := x.now + j })
  | 0, s, x, hx, hr, hs, h, hm, hv => by
    exact run_xASample_hit n hx hr h hv
  | j + 1, s, x, hx, hr, hs, h, hm, hv => by
    rw [irqTx_succ, allReturn_append, Bool.and_eq_true] at h
    have e : n + (2 * (j + 1) + 1) = (n + (2 * j + 1) + 1) + 1 := by omega
    rw [e, irqTx_succ (j + 1), afterExchanges_append]
    refine Eq.trans (run_xASample_miss _ hx hr h.1 (hm 0 (by omega)) (by omega)) ?_
    refine Eq.trans (run_xAWait _ rfl hr) ?_
    refine Eq.trans (phaseA_run n j rfl hr (by simp; omega) h.2 ?_ ?_) ?_
    · intro a ha
      rw [valueAt_afterExchanges]
      simpa [readTx, Nat.mul_add, Nat.add_comm, Nat.add_left_comm] using hm (a + 1) (by omega)
    · rw [valueAt_afterExchanges]; simpa [readTx, Nat.mul_add, Nat.add_comm, Nat.add_left_comm] using hv
    · rw [valueAt_afterExchanges, show (readTx 2).length + (1 + 2 * j) = 1 + 2 * (j + 1) by simp [readTx]; omega]
      simp only [show x.now + 1 + j = x.now + (j + 1) by omega]

/-- phase B with a hit at sample k+1 -/
theorem phaseB_run (n : Nat) : ∀ (k : Nat) {s : State} {x : XRegs},
    x.st = .xBSample → s.rst = [] → x.smp + k ≤ 50 →
    s.allReturn (irqTx (k + 1)) = true → (∀ a < k, valueAt (1 + 2 * a) s &&& 0x00000001 = 0) →
    valueAt (1 + 2 * k) s &&& 0x00000001 ≠ 0 →
    runSeq (n + (2 * k + 1)) (s.withX x) = runSeq n ((s.afterExchanges (irqTx (k + 1))).withX
      { x with st := .xRxstat, smp := x.smp + k + 1, irq := valueAt (1 + 2 * k) s, now := x.now + k })
  | 0, s, x, hx, hr, hs, h, hm, hv => by
    exact run_xBSample_hit n hx hr h hv
  | k + 1, s, x, hx, hr, hs, h, hm, hv => by
    rw [irqTx_succ, allReturn_append, Bool.and_eq_true] at h
    have e : n + (2 * (k + 1) + 1) = (n + (2 * k + 1) + 1) + 1 := by omega
    rw [e, irqTx_succ (k + 1), afterExchanges_append]
    refine Eq.trans (run_xBSample_miss _ hx hr h.1 (hm 0 (by omega)) (by omega)) ?_
    refine Eq.trans (run_xBWait _ rfl hr) ?_
    refine Eq.trans (phaseB_run n k rfl hr (by simp; omega) h.2 ?_ ?_) ?_
    · intro a ha
      rw [valueAt_afterExchanges]
      simpa [readTx, Nat.mul_add, Nat.add_comm, Nat.add_left_comm] using hm (a + 1) (by omega)
    · rw [valueAt_afterExchanges]; simpa [readTx, Nat.mul_add, Nat.add_comm, Nat.add_left_comm] using hv
    · rw [valueAt_afterExchanges, show (readTx 2).length + (1 + 2 * k) = 1 + 2 * (k + 1) by simp [readTx]; omega]
      simp only [show x.now + 1 + k = x.now + (k + 1) by omega, show x.smp + 1 + k + 1 = x.smp + (k + 1) + 1 by omega]

/-- phase B timing out after k more samples -/
theorem phaseB_timeout (n : Nat) : ∀ (k : Nat) {s : State} {x : XRegs},
    x.st = .xBSample → s.rst = [] → x.smp + k = 50 →
    s.allReturn (irqTx (k + 1)) = true → (∀ a < k + 1, valueAt (1 + 2 * a) s &&& 0x00000001 = 0) →
    runSeq (n + (2 * k + 1)) (s.withX x) = runSeq n ((s.afterExchanges (irqTx (k + 1))).withX
      { x with
        st := .xRestore, smp := 51, irq := valueAt (1 + 2 * k) s, now := x.now + k, tflags := 0xFF, tpayload := [] })
  | 0, s, x, hx, hr, hs, h, hm => by
    exact run_xBSample_timeout n hx hr h (hm 0 (by omega)) (by omega)
  | k + 1, s, x, hx, hr, hs, h, hm => by
    rw [irqTx_succ, allReturn_append, Bool.and_eq_true] at h
    have e : n + (2 * (k + 1) + 1) = (n + (2 * k + 1) + 1) + 1 := by omega
    rw [e, irqTx_succ (k + 1), afterExchanges_append]
    refine Eq.trans (run_xBSample_miss _ hx hr h.1 (hm 0 (by omega)) (by omega)) ?_
    refine Eq.trans (run_xBWait _ rfl hr) ?_
    refine Eq.trans (phaseB_timeout n k rfl hr (by simp; omega) h.2 ?_) ?_
    · intro a ha
      rw [valueAt_afterExchanges]
      simpa [readTx, Nat.mul_add, Nat.add_comm, Nat.add_left_comm] using hm (a + 1) (by omega)
    · rw [valueAt_afterExchanges, show (readTx 2).length + (1 + 2 * k) = 1 + 2 * (k + 1) by simp [readTx]; omega]
      simp only [show x.now + 1 + k = x.now + (k + 1) by omega]

/-- phase A timing out -/
theorem phaseA_timeout (n : Nat) {s : State} {x : XRegs} (hx : x.st = .xASample) (hr : s.rst = []) (hs : x.smp = 0)
    (h : s.allReturn (irqTx 2) = true) (hm : ∀ a < 2, valueAt (1 + 2 * a) s &&& 0x00004000 = 0) :
    runSeq (n + 3) (s.withX x) = runSeq n ((s.afterExchanges (irqTx 2)).withX
      { x with st := .xRestore, smp := 2, irq := valueAt 3 s, now := x.now + 1, tflags := 0xFF, tpayload := [] }) := by
  have e : irqTx 2 = readTx 0x02 ++ readTx 0x02 := rfl
  rw [e, allReturn_append, Bool.and_eq_true] at h
  rw [e, afterExchanges_append]
  refine Eq.trans (run_xASample_miss (n + 2) hx hr h.1 (hm 0 (by omega)) (by omega)) ?_
  refine Eq.trans (run_xAWait (n + 1) rfl hr) ?_
  refine Eq.trans (run_xASample_timeout n rfl hr h.2 ?_ ?_) ?_
  · rw [valueAt_afterExchanges]; exact hm 1 (by omega)
  · simp [hs]
  · rw [valueAt_afterExchanges]; rfl


theorem rxEmpty_run (n : Nat) {s : State} {x : XRegs} (hx : x.st = .xRxstat) (hr : s.rst = [])
    (h : s.allReturn (readTx 0x13 ++ [modeAndTx]) = true) (hv : (valueAt 1 s).extractLsb' 0 9 = (0 : BitVec 9)) :
    runSeq (n + 2) (s.withX x) = runSeq n ((s.afterExchanges (readTx 0x13 ++ [modeAndTx])).withX
      { x with st := returnState s.rq, rxn := 0, tflags := 0xFF, tpayload := [], img := idleImg x.img }) := by
  rw [allReturn_append, Bool.and_eq_true] at h
  rw [afterExchanges_append]
  refine Eq.trans (run_xRxstat_empty (n + 1) hx hr h.1 hv) ?_
  exact run_xRestore_ok n rfl hr h.2

theorem rxFrame_run (n : Nat) {s : State} {x : XRegs} (c : BitVec 9) (hx : x.st = .xRxstat) (hr : s.rst = [])
    (hc : (valueAt 1 s).extractLsb' 0 9 = c) (hv : c ≠ 0)
    (h : s.allReturn (readTx 0x13 ++ ([[0x0A, 0x00], List.replicate c.toNat 0xFF] ++ [modeAndTx])) = true) :
    runSeq (n + 3) (s.withX x) = runSeq n
      ((s.afterExchanges (readTx 0x13 ++ ([[0x0A, 0x00], List.replicate c.toNat 0xFF] ++ [modeAndTx]))).withX
      { x with
        st := returnState s.rq, rxn := c, rxb := (answerAt 3 c.toNat s).getD []
        tflags := ((answerAt 3 c.toNat s).getD []).headD 0, tpayload := ((answerAt 3 c.toNat s).getD []).tail
        img := idleImg x.img }) := by
  rw [allReturn_append, allReturn_append, Bool.and_eq_true, Bool.and_eq_true] at h
  rw [afterExchanges_append, afterExchanges_append]
  refine Eq.trans (run_xRxstat_count (n + 2) hx hr h.1 (by rw [hc]; exact hv)) ?_
  rw [hc]
  refine Eq.trans (run_xRxdata_ok (n + 1) rfl hr hv h.2.1) ?_
  refine Eq.trans (run_xRestore_ok n rfl hr h.2.2) ?_
  rw [answerAt_afterExchanges]
  rfl

/-- The steps of a path. -/
def Heard.steps : Heard → Nat
  | .silent => 8
  | .started j => 4 + (2 * j + 1) + 101 + 1
  | .empty j k => 4 + (2 * j + 1) + (2 * k + 1) + 2
  | .frame j k => 4 + (2 * j + 1) + (2 * k + 1) + 3

theorem startTx_length (f : Bytes) : (startTx f).length = 6 := rfl

/-- The registers of a transceive, read off a state. -/
def State.xregs (s : State) : XRegs :=
  ⟨s.st, s.txf, s.smp, s.irq, s.ts, s.rxn, s.rxb, s.tflags, s.tpayload, s.now, s.chip_img⟩

theorem withX_xregs (s : State) : s.withX s.xregs = s := rfl

section Heard

variable {s : State} {f : Bytes}

theorem startsAfter_started {j : Nat} (h : startsAfter j s) :
    (∀ a < j, valueAt (1 + 2 * a) (s.afterExchanges (startTx f)) &&& 0x00004000 = 0) ∧
      valueAt (1 + 2 * j) (s.afterExchanges (startTx f)) &&& 0x00004000 ≠ 0 := by
  obtain ⟨_, ha, hb⟩ := h
  refine ⟨fun a ha' => ?_, ?_⟩
  · rw [valueAt_afterExchanges, startTx_length, show 6 + (1 + 2 * a) = 7 + 2 * a by omega]; exact ha a ha'
  · rw [valueAt_afterExchanges, startTx_length, show 6 + (1 + 2 * j) = 7 + 2 * j by omega]; exact hb

theorem valueAt_phaseB (j a : Nat) :
    valueAt (1 + 2 * a) ((s.afterExchanges (startTx f)).afterExchanges (irqTx (j + 1)))
      = valueAt (9 + 2 * j + 2 * a) s := by
  rw [valueAt_afterExchanges, valueAt_afterExchanges, startTx_length, irqTx_length,
    show 6 + (2 * (j + 1) + (1 + 2 * a)) = 9 + 2 * j + 2 * a by omega]

theorem answerAt_rx (j k m n : Nat) :
    answerAt m n (((s.afterExchanges (startTx f)).afterExchanges (irqTx (j + 1))).afterExchanges (irqTx (k + 1)))
      = answerAt (10 + 2 * j + 2 * k + m) n s := by
  rw [answerAt_afterExchanges, answerAt_afterExchanges, answerAt_afterExchanges, startTx_length, irqTx_length,
    irqTx_length, show 6 + (2 * (j + 1) + (2 * (k + 1) + m)) = 10 + 2 * j + 2 * k + m by omega]

theorem valueAt_rx (j k m : Nat) :
    valueAt m (((s.afterExchanges (startTx f)).afterExchanges (irqTx (j + 1))).afterExchanges (irqTx (k + 1)))
      = valueAt (10 + 2 * j + 2 * k + m) s := by rw [valueAt, answerAt_rx]; rfl

theorem silent_run (n : Nat) (hx : s.st = .xClr) (hr : s.rst = []) (hh : Heard.silent.heard s.txf s) :
    runSeq (n + 8) s = runSeq n { Heard.silent.ran s.txf s with st := returnState s.rq } := by
  obtain ⟨hret, hts, hh⟩ := hh
  simp only [Heard.path, allReturn_append, Bool.and_eq_true] at hret
  obtain ⟨⟨h1, h2⟩, h3⟩ := hret
  refine Eq.trans (prep_run (n + 4) (x := s.xregs) hx hr h1 hts) ?_
  refine Eq.trans (phaseA_timeout (n + 1) rfl hr rfl h2 ?_) ?_
  · intro a ha
    rw [valueAt_afterExchanges, startTx_length, show 6 + (1 + 2 * a) = 7 + 2 * a by omega]; exact hh a ha
  rw [← afterExchanges_append]
  refine Eq.trans (run_xRestore_ok n rfl hr h3) ?_
  rw [valueAt_afterExchanges, ← afterExchanges_append]
  rfl

theorem started_run (n j : Nat) (hx : s.st = .xClr) (hr : s.rst = []) (hh : (Heard.started j).heard s.txf s) :
    runSeq (n + (4 + (2 * j + 1) + 101 + 1)) s
      = runSeq n { (Heard.started j).ran s.txf s with st := returnState s.rq } := by
  obtain ⟨hret, hts, hs, hc⟩ := hh
  simp only [Heard.path, irqTx_add (j + 1) 51, allReturn_append, Bool.and_eq_true] at hret
  obtain ⟨⟨h1, h2, h3⟩, h4⟩ := hret
  rw [show n + (4 + (2 * j + 1) + 101 + 1) = n + 1 + (2 * 50 + 1) + (2 * j + 1) + 4 by omega]
  refine Eq.trans (prep_run _ (x := s.xregs) hx hr h1 hts) ?_
  refine Eq.trans (phaseA_run _ j rfl hr ?_ h2 (startsAfter_started hs).1 (startsAfter_started hs).2) ?_
  · show 0 + j ≤ 1; have := hs.1; omega
  refine Eq.trans (phaseB_timeout _ 50 rfl hr rfl h3 ?_) ?_
  · intro a ha'; rw [valueAt_phaseB]; exact hc a ha'
  refine Eq.trans (run_xRestore_ok n rfl hr ?_) ?_
  · rw [← afterExchanges_append, ← afterExchanges_append]; exact h4
  rw [valueAt_phaseB]
  simp only [Heard.ran, Heard.path, irqTx_add (j + 1) 51, afterExchanges_append,
    show 9 + 2 * j + 2 * 50 = 109 + 2 * j by omega]
  rfl

theorem empty_run (n j k : Nat) (hx : s.st = .xClr) (hr : s.rst = []) (hh : (Heard.empty j k).heard s.txf s) :
    runSeq (n + (4 + (2 * j + 1) + (2 * k + 1) + 2)) s
      = runSeq n { (Heard.empty j k).ran s.txf s with st := returnState s.rq } := by
  obtain ⟨hret, hts, hs, ⟨hk, hc, hd⟩, he⟩ := hh
  have ep : Heard.path s.txf s (.empty j k)
      = startTx s.txf ++ (irqTx (j + 1) ++ (irqTx (k + 1) ++ (readTx 0x13 ++ [modeAndTx]))) := by
    simp [Heard.path, irqTx_add]
  rw [ep, allReturn_append, allReturn_append, allReturn_append] at hret
  simp only [Bool.and_eq_true] at hret
  obtain ⟨h1, h2, h3, h4⟩ := hret
  rw [show n + (4 + (2 * j + 1) + (2 * k + 1) + 2) = n + 2 + (2 * k + 1) + (2 * j + 1) + 4 by omega]
  refine Eq.trans (prep_run _ (x := s.xregs) hx hr h1 hts) ?_
  refine Eq.trans (phaseA_run _ j rfl hr ?_ h2 (startsAfter_started hs).1 (startsAfter_started hs).2) ?_
  · show 0 + j ≤ 1; have := hs.1; omega
  refine Eq.trans (phaseB_run _ k rfl hr ?_ h3 ?_ ?_) ?_
  · show 0 + k ≤ 50; omega
  · intro a ha'; rw [valueAt_phaseB]; exact hc a ha'
  · rw [valueAt_phaseB]; exact hd
  refine Eq.trans (rxEmpty_run n rfl hr h4 ?_) ?_
  · rw [valueAt_rx, show 10 + 2 * j + 2 * k + 1 = 11 + 2 * j + 2 * k by omega]; exact he
  rw [valueAt_phaseB]
  simp only [Heard.ran, ep, afterExchanges_append, Nat.zero_add]
  rfl

theorem frame_run (n j k : Nat) (hx : s.st = .xClr) (hr : s.rst = []) (hh : (Heard.frame j k).heard s.txf s) :
    runSeq (n + (4 + (2 * j + 1) + (2 * k + 1) + 3)) s
      = runSeq n { (Heard.frame j k).ran s.txf s with st := returnState s.rq } := by
  obtain ⟨hret, hts, hs, ⟨hk, hc, hd⟩, he⟩ := hh
  have ep : Heard.path s.txf s (.frame j k) = startTx s.txf ++ (irqTx (j + 1) ++ (irqTx (k + 1) ++
      (readTx 0x13 ++ ([[0x0A, 0x00], List.replicate (countAt j k s).toNat 0xFF] ++ [modeAndTx])))) := by
    simp [Heard.path, irqTx_add]
  rw [ep, allReturn_append, allReturn_append, allReturn_append] at hret
  simp only [Bool.and_eq_true] at hret
  obtain ⟨h1, h2, h3, h4⟩ := hret
  rw [show n + (4 + (2 * j + 1) + (2 * k + 1) + 3) = n + 3 + (2 * k + 1) + (2 * j + 1) + 4 by omega]
  refine Eq.trans (prep_run _ (x := s.xregs) hx hr h1 hts) ?_
  refine Eq.trans (phaseA_run _ j rfl hr ?_ h2 (startsAfter_started hs).1 (startsAfter_started hs).2) ?_
  · show 0 + j ≤ 1; have := hs.1; omega
  refine Eq.trans (phaseB_run _ k rfl hr ?_ h3 ?_ ?_) ?_
  · show 0 + k ≤ 50; omega
  · intro a ha'; rw [valueAt_phaseB]; exact hc a ha'
  · rw [valueAt_phaseB]; exact hd
  refine Eq.trans (rxFrame_run n (countAt j k s) rfl hr ?_ he h4) ?_
  · rw [valueAt_rx, show 10 + 2 * j + 2 * k + 1 = 11 + 2 * j + 2 * k by omega]; rfl
  rw [valueAt_phaseB, answerAt_rx]
  simp only [Heard.ran, ep, afterExchanges_append, Nat.zero_add, frameAt,
    show 10 + 2 * j + 2 * k + 3 = 13 + 2 * j + 2 * k by omega]
  rfl

/-- A whole transceive, from X_CLR; what is known of the tags' memories was settled at its entry. -/
theorem heard_run (n : Nat) {h : Heard} (hx : s.st = .xClr) (hf : s.txf = f) (hr : s.rst = []) (hh : h.heard f s) :
    runSeq (n + h.steps) s = runSeq n { h.ran f s with st := returnState s.rq } := by
  subst hf
  cases h with
  | silent => exact silent_run n hx hr hh
  | started j => exact started_run n j hx hr hh
  | empty j k => exact empty_run n j k hx hr hh
  | frame j k => exact frame_run n j k hx hr hh

end Heard

end Sys2Proof.Machine
end

