-- ==== Sys2Proof/Laws/Requests.lean ====
section
/-!
SUPPORT. What VALIDATE and the reply classification do, in the terms of Safety.lean: the frame of each request, the
state in which its transceive starts, and the class of each reply.
-/

namespace Sys2Proof.Machine

open Sys2Proof

/-! ## Acceptance -/

theorem ready_fault {s : State} (h : s.req_ready = true) : s.fault = .none ∧ (s.st = .ready ∨ s.st = .done) := by
  simp [State.req_ready, State.busy] at h; tauto

theorem request_eq {q : Request} {s : State} (h : s.req_ready = true) :
    request q s = runSeq Config.maxSteps (accept q s) := by simp [request, h]

/-- Every instruction but the chip commands is a request. -/
theorem exec_request {i : Instr} (h : isChipCommand i = false) (s : State) :
    exec i s = .next (request (.op i) s) := by
  cases i <;> first | rfl | cases h

/-! ## Frames -/

theorem reqFlags_eq (flags : Byte) (uid : Option Uid) : reqFlags flags uid = flagsByte flags uid := by
  unfold reqFlags flagsByte
  cases uid with
  | none => simp [Config.addrFlag]
  | some u =>
    simp only [Option.isSome_some, if_true, Config.addrFlag]
    ext i hi
    have : i = 0 ∨ i = 1 ∨ i = 2 ∨ i = 3 ∨ i = 4 ∨ i = 5 ∨ i = 6 ∨ i = 7 := by omega
    rcases this with rfl | rfl | rfl | rfl | rfl | rfl | rfl | rfl <;> simp

theorem isoFrame_eq (code flags : Byte) (uid : Option Uid) (args : IsoArgs) :
    isoFrame code flags uid args = isoBytes code flags uid (frameParams args) := by
  unfold isoFrame isoBytes
  rw [reqFlags_eq]
  cases uid <;> simp [uidField]

theorem isoBytes_length (code flags : Byte) (uid : Option Uid) (p : Bytes) :
    (isoBytes code flags uid p).length = 2 + (if uid.isSome then 8 else 0) + p.length := by
  cases uid <;> simp [isoBytes, Uid.bytes] <;> omega

theorem isoEncode_eq {r : IsoReq} (h : r.cmd ≠ 0x01) :
    isoEncode r = isoBytes r.cmd r.flags r.uid (frameParams r.args) := by
  rw [isoEncode, if_neg h, isoFrame_eq]

/-- A request whose frame the table gives passes the checks, and is encoded as that frame. -/
theorem isoReqOk_of_frame {r : IsoReq} {f : Bytes} (h : isoCmdFrame r.cmd r.flags r.uid r.args = some f) :
    isoReqOk r = true ∧ isoEncode r = f := by
  obtain ⟨cmd, flags, uid, args⟩ := r
  simp only at h
  have hu : (if uid.isSome = true then 8 else 0) ≤ 8 := by split <;> omega
  cases args with
  | none =>
    simp only [isoCmdFrame] at h
    split at h
    · rename_i hc; subst hc
      split at h
      · rename_i hu; subst hu; cases h
        exact ⟨by simp [isoReqOk, isoShape, argsOk, isoEncode, inventoryFrame, Config.maxTxFrame], rfl⟩
      · cases h
    · rename_i hc
      split at h
      · rename_i hm
        cases h
        rw [isoEncode_eq hc]
        refine ⟨?_, rfl⟩
        simp only [List.mem_cons, List.not_mem_nil, or_false] at hm
        rcases hm with rfl | rfl | rfl | rfl | rfl | rfl <;>
          simp [isoReqOk, isoShape, argsOk, isoEncode_eq, isoBytes_length, frameParams, Config.maxTxFrame] <;> omega
      · cases h
  | block b =>
    simp only [isoCmdFrame] at h
    split at h
    · rename_i hm
      cases h
      simp only [List.mem_cons, List.not_mem_nil, or_false] at hm
      rcases hm with rfl | rfl <;>
        (refine ⟨?_, isoEncode_eq (by simp)⟩
         simp [isoReqOk, isoShape, argsOk, isoEncode_eq, isoBytes_length, frameParams, Config.maxTxFrame]; omega)
    · cases h
  | blockData b data =>
    simp only [isoCmdFrame, blockWriteFrame] at h
    split at h
    · rename_i hm
      subst hm
      split at h
      · cases h
        refine ⟨?_, isoEncode_eq (by simp)⟩
        simp [isoReqOk, isoShape, argsOk, isoEncode_eq, isoBytes_length, frameParams, Config.maxTxFrame]; omega
      · cases h
    · cases h
  | range first count =>
    simp only [isoCmdFrame, rangeFrame] at h
    split at h
    · rename_i hm
      split at h
      · rename_i hd
        cases h
        simp only [List.mem_cons, List.not_mem_nil, or_false] at hm
        simp [countFits] at hd
        rcases hm with rfl | rfl <;>
          (refine ⟨?_, isoEncode_eq (by simp)⟩
           simp [isoReqOk, isoShape, argsOk, isoEncode_eq, isoBytes_length, frameParams, Config.maxTxFrame, countOk]
           omega)
      · cases h
    · cases h
  | rangeData first count data =>
    simp only [isoCmdFrame, rangeWriteFrame, fitting] at h
    split at h
    · rename_i hm
      subst hm
      split at h
      · rename_i hd
        split at h
        · rename_i hl
          cases h
          simp [countFits] at hd
          refine ⟨?_, isoEncode_eq (by simp)⟩
          simp [isoReqOk, isoShape, argsOk, isoEncode_eq, frameParams, Config.maxTxFrame, countOk, hd]
          exact hl
        · cases h
      · cases h
    · cases h
  | value v =>
    simp only [isoCmdFrame] at h
    split at h
    · rename_i hm
      cases h
      simp only [List.mem_cons, List.not_mem_nil, or_false] at hm
      rcases hm with rfl | rfl <;>
        (refine ⟨?_, isoEncode_eq (by simp)⟩
         simp [isoReqOk, isoShape, argsOk, isoEncode_eq, isoBytes_length, frameParams, Config.maxTxFrame]; omega)
    · cases h
  | raw bs =>
    simp only [isoCmdFrame, fitting] at h
    split at h
    · rename_i hm
      split at h
      · rename_i hl
        cases h
        simp only [List.mem_cons, List.not_mem_nil, or_false] at hm
        rcases hm with rfl | rfl | rfl | rfl | rfl <;>
          (refine ⟨?_, isoEncode_eq (by simp)⟩
           simp [isoReqOk, isoShape, argsOk, isoEncode_eq, frameParams, Config.maxTxFrame]; exact hl)
      · cases h
    · cases h

set_option linter.unusedSimpArgs false in
/-- A request that passes the checks has its frame in the table. -/
theorem frame_of_isoReqOk {r : IsoReq} (h : isoReqOk r = true) :
    isoCmdFrame r.cmd r.flags r.uid r.args = some (isoEncode r) := by
  obtain ⟨cmd, flags, uid, args⟩ := r
  unfold isoReqOk at h
  revert h
  cases hs : isoShape cmd with
  | none => simp
  | some shape =>
    intro h
    simp only [Bool.and_eq_true, decide_eq_true_eq] at h
    obtain ⟨⟨ha, hi⟩, hl⟩ := h
    have hcmd : cmd = BitVec.ofNat 8 cmd.toNat := by simp
    unfold isoShape at hs
    split at hs
    all_goals first
      | (cases hs; done)
      | (rename_i hc; rw [hc] at hcmd; subst hcmd; injection hs with hs; subst hs)
    all_goals
      (cases args <;> simp only [argsOk, Bool.and_eq_true, decide_eq_true_eq, Bool.false_eq_true, countOk] at ha)
    all_goals first
      | (simp [isoEncode, isoFrame_eq, frameParams, Config.maxTxFrame, inventoryFrame] at hi hl ⊢
         simp [isoCmdFrame, blockWriteFrame, rangeFrame, rangeWriteFrame, fitting, countFits, countByte, countField,
           isoEncode, isoFrame_eq, frameParams, inventoryFrame, *]; done)
      | skip
    · have hu : uid = none := by simpa using hi
      subst hu; rfl
    · simp only [isoEncode_eq (r := ⟨BitVec.ofNat 8 36, _, _, _⟩) (show BitVec.ofNat 8 36 ≠ 0x01 by decide),
        frameParams, Config.maxTxFrame] at hl ⊢
      simp only [isoCmdFrame, rangeWriteFrame, fitting, countFits, Bool.and_eq_true, decide_eq_true_eq]
      rw [if_pos (show BitVec.ofNat 8 36 = 36 by decide), if_pos ⟨ha.1, ha.2⟩]
      exact if_pos hl

theorem isoCmdFrame_eq (r : IsoReq) :
    isoCmdFrame r.cmd r.flags r.uid r.args = if isoReqOk r then some (isoEncode r) else none := by
  cases hk : isoReqOk r with
  | true => simpa using frame_of_isoReqOk hk
  | false =>
    cases hf : isoCmdFrame r.cmd r.flags r.uid r.args with
    | none => simp
    | some f => rw [(isoReqOk_of_frame hf).1] at hk; cases hk

/-- A mnemonic and its ISO_CMD send the same frame. -/
theorem frameOf_iso {i : Instr} {r : IsoReq} (h : isoReqOf i = some r) :
    frameOf i = if isoReqOk r then some (isoEncode r) else none := by
  rw [← isoCmdFrame_eq]
  cases i <;> simp only [isoReqOf, Option.some.injEq, reduceCtorEq] at h <;> subst h <;> rfl

/-! ## The mapper's figures -/

theorem mapPlan_nblk {bs offset len : Nat} : (mapPlan bs offset len).nblk = blocksOf bs offset len := by
  unfold mapPlan blocksOf roundUp
  simp only
  rcases Nat.eq_zero_or_pos bs with h | h
  · subst h; simp
  · rw [Nat.mul_div_cancel _ h, Nat.add_comm len]

theorem mapPlan_startBlock {bs offset len : Nat} : (mapPlan bs offset len).startBlock = offset / bs := by
  unfold mapPlan
  simp only
  rcases Nat.eq_zero_or_pos bs with h | h
  · subst h; simp
  · have := Nat.div_add_mod offset bs
    conv_lhs => rw [← this]
    rw [Nat.add_mod]
    simp [Nat.mul_div_cancel_left _ h]

theorem geometryOk_eq (tag : TagRec) : geometryOk tag = geometryFits tag := by
  simp only [geometryOk, geometryFits, Bool.and_assoc]; rfl

theorem setPlan_eq (tag : TagRec) (o l : Nat) (t : State) : setPlan tag (mapPlan tag.bs o l) t = t.mapped tag o l := by
  unfold setPlan State.mapped
  rw [mapPlan_nblk, mapPlan_startBlock]; rfl

theorem memReadFrame_eq (tag : TagRec) (o l : Nat) : memReadFrame tag (mapPlan tag.bs o l) = memReadBytes tag o l := by
  unfold memReadFrame isoEncode
  rw [if_neg (show ¬((0x23 : Byte) = 0x01) by decide), isoFrame_eq, mapPlan_nblk, mapPlan_startBlock]
  simp [isoBytes, frameParams, memReadBytes, flagsByte, Config.defaultReqFlags, countField]

/-! ## Validation -/

theorem validate_iso {i : Instr} {r : IsoReq} {t : State} (h : isoReqOf i = some r) (hq : t.rq = .op i) :
    validate t = startIso r t := by
  unfold validate; rw [hq]; simp only [h]

theorem startIso_ok {r : IsoReq} {t : State} (h : isoReqOk r = true) :
    startIso r t = enterTransceive (isoEncode r) t := by
  simp [startIso, startRf, h]

theorem startRaw_ok {code flags : Byte} {uid : Option Uid} {raw f : Bytes} {t : State}
    (h : fitting (isoBytes code flags uid raw) = some f) :
    startRaw code flags uid raw t = enterTransceive f t := by
  unfold fitting at h
  split at h
  · rename_i hl; cases h
    have : rawFrame code flags uid raw = isoBytes code flags uid raw := by rw [rawFrame, isoFrame_eq]; rfl
    simp [startRaw, startRf, this, Config.maxTxFrame, hl]
  · cases h

theorem startedBy_of_iso {i : Instr} {r : IsoReq} {t : State} (h : isoReqOf i = some r) (hq : t.rq = .op i) :
    t.startedBy i = t := by
  have hs : t.startedBy i = { t with rq := .op i } := by
    cases i <;> first | rfl | cases h
  rw [hs, ← hq]

/-- VALIDATE of a request of one transceive. -/
theorem validate_frame {i : Instr} {f : Bytes} {t : State} (h : frameOf i = some f) (hq : t.rq = .op i) :
    validate t = enterTransceive f (t.startedBy i) := by
  cases hr : isoReqOf i with
  | some r =>
    rw [validate_iso hr hq, startedBy_of_iso hr hq]
    rw [frameOf_iso hr] at h
    split at h
    · rename_i hk
      cases h
      exact startIso_ok hk
    · cases h
  | none =>
    unfold validate; rw [hq]; simp only [hr]
    cases i <;> simp only [frameOf, isoReqOf, reduceCtorEq] at h hr
    case transceive frame =>
      split at h
      · rename_i hl
        unfold fitting at h
        split at h
        · rename_i hl2; cases h
          simp [startRf, frameOk, hl, Config.maxTxFrame, hl2, State.startedBy, ← hq]
        · cases h
      · cases h
    case memRead tag o l =>
      split at h
      · rename_i hm; cases h
        simp only [memReaches, Bool.and_eq_true, decide_eq_true_eq] at hm
        obtain ⟨⟨hg, hra⟩, hl⟩ := hm
        simp only [startMemRead, geometryOk_eq, hg, Bool.not_true, Bool.false_eq_true, if_false]
        rw [show rangeOk tag o.toNat l.toNat = true from hra, if_neg (by simp), if_neg (by rintro rfl; simp at hl),
          memReadFrame_eq, setPlan_eq]
        simp only [State.startedBy, ← hq]
        rfl
      · cases h
    case isoRaw code flags uid raw =>
      refine (startRaw_ok h).trans ?_
      simp only [State.startedBy, ← hq]
    case raw code flags uid raw =>
      refine (startRaw_ok h).trans ?_
      simp only [State.startedBy, ← hq]

/-! ## Replies -/

theorem arbitrate_eq (fl : Byte) (pl : Bytes) : arbitrate fl pl = plainReply fl pl := by
  unfold arbitrate plainReply
  by_cases h : fl = 0xFF
  · subst h; rfl
  · by_cases h0 : fl = 0
    · subst h0; rfl
    · unfold Config.noAnswerFlags; rw [if_neg h, if_neg h, if_neg h0, if_pos h0]

theorem plainReply_ok {fl : Byte} {pl : Bytes} : (plainReply fl pl).cls = .ok ↔ fl = 0 := by
  unfold plainReply
  split
  · rename_i h; subst h; simp
  · split <;> simp_all

theorem plainReply_zero (pl : Bytes) : plainReply 0 pl = { cls := .ok, flags := some 0x00, data := pl } := rfl

theorem parseInventory_eq (fl : Byte) (pl : Bytes) : parseInventory fl pl = inventoryReply fl pl := by
  unfold parseInventory inventoryReply
  rw [arbitrate_eq]
  by_cases h : fl = 0
  · subst h
    simp only [plainReply_zero, if_true, ne_eq, not_true_eq_false, if_false, Config.invMinPayload]
    match pl with
    | [] | [_] | [_, _] | [_, _, _] | [_, _, _, _] | [_, _, _, _, _] | [_, _, _, _, _, _] | [_, _, _, _, _, _, _]
    | [_, _, _, _, _, _, _, _] => rfl
    | _ :: _ :: _ :: _ :: _ :: _ :: _ :: _ :: _ :: _ => simp [payloadUid, takeUid]
  · simp only [plainReply_ok, h, if_false, ne_eq, not_false_eq_true, if_true]

theorem parseSystemInfo_eq (fl : Byte) (pl : Bytes) : parseSystemInfo fl pl = systemInfoReply fl pl := by
  unfold parseSystemInfo systemInfoReply
  rw [arbitrate_eq]
  by_cases h : fl = 0
  · subst h
    simp only [plainReply_zero, if_true, ne_eq, not_true_eq_false, if_false]
    cases pl with
    | nil => rfl
    | cons f rest =>
      unfold systemInfo infoLength
      have hm : ∀ b : Byte, (b &&& 31#8).toNat = b.toNat % 32 := by
        intro b; rw [BitVec.toNat_and]; exact Nat.and_two_pow_sub_one_eq_mod b.toNat 5
      simp only [List.headD_cons]
      rcases Bool.eq_false_or_eq_true (f.getLsbD 0) with h0 | h0 <;>
        rcases Bool.eq_false_or_eq_true (f.getLsbD 1) with h1 | h1 <;>
        rcases Bool.eq_false_or_eq_true (f.getLsbD 2) with h2 | h2 <;>
        simp only [h0, h1, h2, if_true, Bool.false_eq_true, if_false, List.length_cons] <;>
        (simp only [List.cons_ne_nil, false_or, Nat.reduceAdd]
         split_ifs <;> first
           | omega
           | rfl
           | simp only [hm, show (0x1F : Byte) = 31#8 from rfl, List.getD_cons_succ])
  · simp only [plainReply_ok, h, if_false, ne_eq, not_false_eq_true, if_true]

theorem parseMultiWrite_eq (count : Nat) (fl : Byte) (pl : Bytes) :
    parseMultiWrite count fl pl = multiWriteReply count fl pl := by
  unfold parseMultiWrite multiWriteReply
  rw [arbitrate_eq]
  by_cases h : fl = 0
  · subst h; simp only [plainReply_zero, true_and]
  · simp only [plainReply_ok, h, false_and, if_false]

theorem readReply_eq (bs o l : Nat) (fl : Byte) (pl : Bytes) :
    readReply (o % bs) l fl pl = memReadReply bs o l fl pl := by
  unfold readReply memReadReply
  rw [arbitrate_eq]
  by_cases h : fl = 0
  · subst h
    simp only [plainReply_zero, slice, if_true, ne_eq, not_true_eq_false, if_false, Nat.add_sub_cancel_left]
  · simp only [plainReply_ok, h, if_false, ne_eq, not_false_eq_true, if_true]

theorem chunkFailure_eq (b fl : Byte) (pl : Bytes) : chunkFailure b fl pl = chunkReply b fl pl := by
  unfold chunkFailure chunkReply
  by_cases h : fl = 0xFF
  · subst h; rfl
  · simp only [Config.noAnswerFlags]
    cases pl with
    | nil =>
      by_cases h0 : fl = 0
      · subst h0; rfl
      · simp only [h, h0, ne_eq, not_false_eq_true, if_true, if_false, false_and]; rfl
    | cons c r => simp only [h, if_false, reduceCtorEq, and_false]; rfl

/-- The reply of a request of one transceive, MEM_READ apart. -/
theorem decodeReply_eq {i : Instr} {f : Bytes} (h : frameOf i = some f) (fl : Byte) (pl : Bytes)
    (hm : ∀ t o l, i ≠ .memRead t o l) : decodeReply i fl pl = replyOf i fl pl := by
  cases i
  case memRead => exact absurd rfl (hm _ _ _)
  case isoCmd cmd flags uid args =>
    simp only [frameOf] at h
    cases args <;> simp only [isoCmdFrame] at h
    all_goals simp only [replyOf, decodeReply, isoReqOf, isoDecode]
    · split at h
      · rename_i hc; subst hc; simp [parseInventory_eq]
      · split at h
        · rename_i hc hm
          simp only [List.mem_cons, List.not_mem_nil, or_false] at hm
          rcases hm with rfl | rfl | rfl | rfl | rfl | rfl <;> simp [parseSystemInfo_eq, arbitrate_eq]
        · cases h
    · split at h
      · rename_i hm
        simp only [List.mem_cons, List.not_mem_nil, or_false] at hm
        rcases hm with rfl | rfl <;> simp [arbitrate_eq]
      · cases h
    · split at h
      · rename_i hm; subst hm; simp [arbitrate_eq]
      · cases h
    · split at h
      · rename_i hm
        simp only [List.mem_cons, List.not_mem_nil, or_false] at hm
        rcases hm with rfl | rfl <;> simp [arbitrate_eq]
      · cases h
    · split at h
      · rename_i hm; subst hm; simp [parseMultiWrite_eq]
      · cases h
    · split at h
      · rename_i hm
        simp only [List.mem_cons, List.not_mem_nil, or_false] at hm
        rcases hm with rfl | rfl <;> simp [arbitrate_eq]
      · cases h
    · split at h
      · rename_i hm
        simp only [List.mem_cons, List.not_mem_nil, or_false] at hm
        rcases hm with rfl | rfl | rfl | rfl | rfl <;> simp [arbitrate_eq]
      · cases h
  all_goals first
    | (cases h; done)
    | (simp [replyOf, decodeReply, isoReqOf, isoDecode, arbitrate_eq, parseInventory_eq, parseSystemInfo_eq,
        parseMultiWrite_eq])

/-! ## Paths -/

/-- Whether a path is heard depends on the coming answers alone. -/
theorem heard_congr {s t : State} (h1 : s.chip_in = t.chip_in) (h2 : s.nx = t.nx) (f : Bytes) (h : Heard) :
    h.heard f s ↔ h.heard f t := by
  have hv : ∀ k, valueAt k s = valueAt k t := valueAt_congr h1 h2
  have hp : h.path f s = h.path f t := by cases h <;> simp [Heard.path, countAt, hv]
  unfold Heard.heard
  rw [allReturn_congr h1 h2, hp, hv]
  cases h <;> simp [startsAfter, endsAfter, countAt, hv]

theorem heard_steps_le {f : Bytes} {s : State} {h : Heard} (hh : h.heard f s) : h.steps ≤ 111 := by
  cases h <;> simp only [Heard.steps, Heard.heard, startsAfter, endsAfter] at * <;> omega

/-- What a path leaves does not depend on `st`, `txf` and `tag_mem`. -/
theorem ran_entered (w : State) (f : Bytes) (h : Heard) :
    h.ran f (enterTransceive f w) = enterTransceive f (h.ran f w) := by
  have ha : ∀ l, State.afterExchanges l (enterTransceive f w) = enterTransceive f (w.afterExchanges l) := by
    intro l
    simp only [State.afterExchanges, State.sent, sentFrom_congr (s := enterTransceive f w) (t := w) rfl rfl]
    rfl
  have hv : ∀ k, valueAt k (enterTransceive f w) = valueAt k w := fun k => valueAt_congr rfl rfl k
  have hn : ∀ k n, answerAt k n (enterTransceive f w) = answerAt k n w := fun k n => answerAt_congr rfl rfl k n
  have hp : h.path f (enterTransceive f w) = h.path f w := by
    cases h <;> simp only [Heard.path, countAt, hv]
  unfold Heard.ran
  rw [hp, ha]
  cases h <;> simp only [hv, countAt, frameAt, hn] <;> rfl

theorem ran_tag_mem (w : State) (f : Bytes) (h : Heard) : (h.ran f w).tag_mem = w.tag_mem := by cases h <;> rfl
theorem ran_txf (w : State) (f : Bytes) (h : Heard) : (h.ran f w).txf = f := by cases h <;> rfl

/-- A whole transceive, from its entry to the state it returns to (41 R140 to R158). -/
theorem heard_entered {w : State} {f : Bytes} {h : Heard} (n : Nat) (hr : w.rst = []) (hh : h.heard f w) :
    runSeq (n + h.steps) (enterTransceive f w) = runSeq n { h.after f w with st := returnState w.rq } := by
  rw [heard_run (s := enterTransceive f w) (f := f) n rfl rfl hr
    ((heard_congr (s := w) (t := enterTransceive f w) rfl rfl f h).1 hh),
    ran_entered]
  have ht := ran_txf w f h
  have hm := ran_tag_mem w f h
  unfold Heard.after
  generalize h.ran f w = v at ht hm ⊢
  clear hh
  subst ht
  simp only [enterTransceive, hm]

end Sys2Proof.Machine
end

