-- ==== Sys2Proof/Machine/Text.lean ====
section
/-!
DEFINITION. The text form of a request (30_encoding.md R109, R111): one line each. A chip command and an ISO_CMD with a
code outside R94's table have none.
-/

namespace Sys2Proof.Machine

open Sys2Proof

/-- A byte as two hexadecimal digits. -/
def hex2 (b : Byte) : String := hexDigit (b.toNat / 16) ++ hexDigit (b.toNat % 16)

/-- A byte as a number. -/
def textByte (b : Byte) : String := "0x" ++ hex2 b

/-- A 32-bit value, its highest byte first. -/
def textWord (v : Word) : String := "0x" ++ String.join ((le32 v).reverse.map hex2)

/-- A byte string. -/
def textBytes (bs : Bytes) : String := "[" ++ String.intercalate ", " (bs.map hex2) ++ "]"

/-- `<uid>`: eight hex bytes in wire order. -/
def textUid (u : Uid) : String := String.intercalate ":" (u.bytes.map hex2)

/-- `<tag>`. -/
def textTag (tag : TagRec) : String :=
  "tag(uid=" ++ textUid tag.uid ++ ", bs=" ++ toString tag.bs ++ ", nb=" ++ toString tag.nb ++ ")"

/-- `<command>`: the lower-case name of R94. -/
def commandName (cmd : Byte) : Option String :=
  match cmd.toNat with
  | 0x01 => some "inventory"
  | 0x02 => some "stay_quiet"
  | 0x20 => some "read_single_block"
  | 0x21 => some "write_single_block"
  | 0x22 => some "lock_block"
  | 0x23 => some "read_multiple_block"
  | 0x24 => some "write_multiple_block"
  | 0x25 => some "select"
  | 0x26 => some "reset_to_ready"
  | 0x27 => some "write_afi"
  | 0x28 => some "lock_afi"
  | 0x29 => some "write_dsfid"
  | 0x2A => some "lock_dsfid"
  | 0x2B => some "get_system_information"
  | 0x2C => some "get_multiple_block_security_status"
  | 0xC0 => some "vendor_c0"
  | 0xC1 => some "vendor_c1"
  | 0xC2 => some "vendor_c2"
  | 0xC3 => some "vendor_c3"
  | 0xC4 => some "vendor_c4"
  | _ => none

/-- `[flags=0xHH] [uid=<uid>]`, each after a space; the default flags are left out (R87). -/
def textFlagsUid (flags : Byte) (uid : Option Uid) : String :=
  (if flags = Config.defaultReqFlags then "" else " flags=" ++ textByte flags)
    ++ (match uid with
      | some u => " uid=" ++ textUid u
      | none => "")

/-- `<args>`: the operands of R94 as `name=value`, each after a space. -/
def textArgs (cmd : Byte) : IsoArgs → String
  | .none => ""
  | .block b => " block=" ++ toString b.toNat
  | .blockData b data => " block=" ++ toString b.toNat ++ " data=" ++ textBytes data
  | .range first count => " first=" ++ toString first.toNat ++ " count=" ++ toString count
  | .rangeData first count data =>
      " first=" ++ toString first.toNat ++ " count=" ++ toString count ++ " data=" ++ textBytes data
  | .value v => (if cmd = 0x27 then " afi=" else " dsfid=") ++ textByte v
  | .raw raw => " raw=" ++ textBytes raw

/-- `iso raw`, the RAW escape (R102). -/
def textRaw (code flags : Byte) (uid : Option Uid) (raw : Bytes) : String :=
  "iso raw" ++ textFlagsUid flags uid ++ " code=" ++ textByte code ++ " raw=" ++ textBytes raw

/-- The line of a request. -/
def Instr.text (i : Instr) : Option String :=
  match isoReqOf i with
  | some r => (commandName r.cmd).map fun n => "iso " ++ n ++ textFlagsUid r.flags r.uid ++ textArgs r.cmd r.args
  | none =>
    match i with
    | .transceive frame => some ("xcv " ++ textBytes frame)
    | .memRead tag offset length =>
        some ("mem.read " ++ textTag tag ++ ", " ++ toString offset.toNat ++ ", " ++ toString length.toNat)
    | .memWrite tag offset data =>
        some ("mem.write " ++ textTag tag ++ ", " ++ toString offset.toNat ++ ", " ++ textBytes data)
    | .chipIdle => some "chip.idle"
    | .isoRaw code flags uid raw | .raw code flags uid raw => some (textRaw code flags uid raw)
    | .regWrite addr value => some ("reg.write " ++ textByte addr ++ ", " ++ textWord value)
    | .regOr addr mask => some ("reg.or " ++ textByte addr ++ ", " ++ textWord mask)
    | .regAnd addr mask => some ("reg.and " ++ textByte addr ++ ", " ++ textWord mask)
    | .regRead addr => some ("reg.read " ++ textByte addr)
    | .eepromRead addr len => some ("eeprom.read " ++ textByte addr ++ ", " ++ toString len.toNat)
    | _ => none

end Sys2Proof.Machine
end

