-- ==== Sys2Proof/Tests/Slice0.lean ====
section
/-!
SUPPORT. Tests on fixed values. The expected values are 95_test_vectors.md's (parts 2 to 9) or worked by hand from the
encodings of 30_encoding.md. Then the witnesses: for each statement of Obligations.lean with hypotheses, a concrete state
and operands that meet them.
-/

namespace Sys2Proof.Tests

open Sys2Proof Sys2Proof.Machine

set_option Elab.async false

/-- `U` of 95_test_vectors.md. -/
def u : Uid := ⟨0x78, 0x56, 0x34, 0x12, 0x50, 0x01, 0x04, 0xE0⟩

/-- `T4` of 95_test_vectors.md. -/
def t4 : TagRec := ⟨u, 4, 16⟩

/-! ## WellFormed refuses ill-formed terms -/

theorem test_ill_transceive_empty : Instr.wellFormed (.transceive []) = false := by decide
theorem test_ill_transceive_long : Instr.wellFormed (.transceive (zeros 261)) = false := by decide +kernel
theorem test_ill_iso_cmd_code : Instr.wellFormed (.isoCmd 0xA0 0x02 none .none) = false := by decide
theorem test_ill_iso_cmd_shape : Instr.wellFormed (.isoCmd 0x20 0x02 none .none) = false := by decide
theorem test_ill_iso_cmd_inventory_uid : Instr.wellFormed (.isoCmd 0x01 0x02 (some u) .none) = false := by decide
theorem test_ill_iso_cmd_count : Instr.wellFormed (.isoCmd 0x23 0x02 none (.range 0 257)) = false := by decide
theorem test_ill_iso_cmd_long : Instr.wellFormed (.isoCmd 0xC0 0x02 (some u) (.raw (zeros 251))) = false := by decide +kernel
theorem test_ill_mem_read_size : Instr.wellFormed (.memRead ⟨u, 65536, 16⟩ 0 0) = false := by decide
theorem test_ill_mem_write_blocks : Instr.wellFormed (.memWrite ⟨u, 4, 65536⟩ 0 []) = false := by decide
theorem test_ill_iso_raw_long : Instr.wellFormed (.isoRaw 0xA0 0x02 none (zeros 259)) = false := by decide +kernel
theorem test_ill_eeprom_read_none : Instr.wellFormed (.eepromRead 0x10 0) = false := by decide
theorem test_ill_stay_quiet_flags : Instr.wellFormed (.stayQuiet 0x22 none) = false := by decide
theorem test_ill_read_single_flags : Instr.wellFormed (.readSingleBlock 0x02 (some u) 5) = false := by decide
theorem test_ill_write_single_empty : Instr.wellFormed (.writeSingleBlock 0x02 none 0 []) = false := by decide
theorem test_ill_write_single_long : Instr.wellFormed (.writeSingleBlock 0x02 none 0 (zeros 33)) = false := by decide +kernel
theorem test_ill_read_multiple_none : Instr.wellFormed (.readMultipleBlock 0x02 none 0 0) = false := by decide
theorem test_ill_write_multiple_empty : Instr.wellFormed (.writeMultipleBlock 0x02 none 0 1 []) = false := by decide
theorem test_ill_write_multiple_long : Instr.wellFormed (.writeMultipleBlock 0x22 (some u) 0 1 (zeros 249)) = false := by decide +kernel
theorem test_ill_security_status_count : Instr.wellFormed (.getMultipleBlockSecurityStatus 0x02 none 0 257) = false := by decide
theorem test_ill_vendor_long : Instr.wellFormed (.vendorC0 0x22 (some u) (zeros 251)) = false := by decide +kernel
theorem test_ill_raw_flags : Instr.wellFormed (.raw 0xA0 0x22 none []) = false := by decide
theorem test_ill_read_eeprom_none : Instr.wellFormed (.readEeprom 0x10 0) = false := by decide
theorem test_ill_send_data_empty : Instr.wellFormed (.sendData []) = false := by decide
theorem test_ill_send_data_long : Instr.wellFormed (.sendData (zeros 261)) = false := by decide +kernel

/-! ## Words written out from the encodings (30_encoding.md R87, R90, R94; record layouts: log 1) -/

theorem test_decode_transceive :
    decode .hostReq [0x01, 0x26, 0x01, 0x00] = .ok (.transceive [0x26, 0x01, 0x00]) := by decide
theorem test_decode_iso_cmd :
    decode .hostReq [0x02, 0x20, 0x03, 0x02, 0x78, 0x56, 0x34, 0x12, 0x50, 0x01, 0x04, 0xE0, 0x05] =
      .ok (.isoCmd 0x20 0x02 (some u) (.block 5)) := by decide
theorem test_decode_iso_cmd_default_flags :
    decode .hostReq [0x02, 0x23, 0x00, 0x04, 0x00, 0x01] = .ok (.isoCmd 0x23 0x02 none (.range 4 256)) := by decide
theorem test_decode_mem_read :
    decode .hostReq [0x03, 0x78, 0x56, 0x34, 0x12, 0x50, 0x01, 0x04, 0xE0, 0x04, 0x00, 0x10, 0x00, 0x02, 0x00, 0x03, 0x00] =
      .ok (.memRead t4 2 3) := by decide
theorem test_decode_mem_write :
    decode .hostReq [0x04, 0x78, 0x56, 0x34, 0x12, 0x50, 0x01, 0x04, 0xE0, 0x04, 0x00, 0x10, 0x00, 0x02, 0x00, 0x09, 0x09, 0x09] =
      .ok (.memWrite t4 2 [9, 9, 9]) := by decide
theorem test_decode_chip_idle : decode .hostReq [0x05] = .ok (.chipIdle) := by decide
theorem test_decode_iso_raw :
    decode .hostReq [0x06, 0xA0, 0x02, 0x42, 0x04] = .ok (.isoRaw 0xA0 0x42 none [0x04]) := by decide
theorem test_decode_reg_write :
    decode .hostReq [0x10, 0x10, 0x78, 0x56, 0x34, 0x12] = .ok (.regWrite 0x10 0x12345678) := by decide
theorem test_decode_reg_or : decode .hostReq [0x11, 0x00, 0x03, 0x00, 0x00, 0x00] = .ok (.regOr 0x00 3) := by decide
theorem test_decode_reg_and :
    decode .hostReq [0x12, 0x00, 0xF8, 0xFF, 0xFF, 0xFF] = .ok (.regAnd 0x00 0xFFFFFFF8) := by decide
theorem test_decode_reg_read : decode .hostReq [0x13, 0x1D] = .ok (.regRead 0x1D) := by decide
theorem test_decode_eeprom_read : decode .hostReq [0x14, 0x10, 0x02] = .ok (.eepromRead 0x10 2) := by decide
theorem test_decode_inventory : decode .isoReq [0x26, 0x01, 0x00] = .ok (.inventory) := by decide
theorem test_decode_stay_quiet :
    decode .isoReq [0x22, 0x02, 0x78, 0x56, 0x34, 0x12, 0x50, 0x01, 0x04, 0xE0] =
      .ok (.stayQuiet 0x22 (some u)) := by decide
theorem test_decode_read_single_block :
    decode .isoReq [0x22, 0x20, 0x78, 0x56, 0x34, 0x12, 0x50, 0x01, 0x04, 0xE0, 0x05] =
      .ok (.readSingleBlock 0x22 (some u) 5) := by decide
theorem test_decode_read_single_block_option :
    decode .isoReq [0x42, 0x20, 0xFF] = .ok (.readSingleBlock 0x42 none 0xFF) := by decide
theorem test_decode_write_single_block :
    decode .isoReq [0x02, 0x21, 0x07, 0xAA] = .ok (.writeSingleBlock 0x02 none 7 [0xAA]) := by decide
theorem test_decode_lock_block : decode .isoReq [0x02, 0x22, 0x03] = .ok (.lockBlock 0x02 none 3) := by decide
theorem test_decode_read_multiple_block :
    decode .isoReq [0x02, 0x23, 0x00, 0xFF] = .ok (.readMultipleBlock 0x02 none 0 256) := by decide
theorem test_decode_write_multiple_block :
    decode .isoReq [0x02, 0x24, 0x04, 0x01, 0x01, 0x02] =
      .ok (.writeMultipleBlock 0x02 none 4 2 [0x01, 0x02]) := by decide
theorem test_decode_select :
    decode .isoReq [0x22, 0x25, 0x78, 0x56, 0x34, 0x12, 0x50, 0x01, 0x04, 0xE0] =
      .ok (.select 0x22 (some u)) := by decide
theorem test_decode_reset_to_ready : decode .isoReq [0x02, 0x26] = .ok (.resetToReady 0x02 none) := by decide
theorem test_decode_write_afi : decode .isoReq [0x02, 0x27, 0x02] = .ok (.writeAfi 0x02 none 2) := by decide
theorem test_decode_lock_afi : decode .isoReq [0x02, 0x28] = .ok (.lockAfi 0x02 none) := by decide
theorem test_decode_write_dsfid : decode .isoReq [0x02, 0x29, 0x05] = .ok (.writeDsfid 0x02 none 5) := by decide
theorem test_decode_lock_dsfid : decode .isoReq [0x02, 0x2A] = .ok (.lockDsfid 0x02 none) := by decide
theorem test_decode_get_system_information :
    decode .isoReq [0x22, 0x2B, 0x78, 0x56, 0x34, 0x12, 0x50, 0x01, 0x04, 0xE0] =
      .ok (.getSystemInformation 0x22 (some u)) := by decide
theorem test_decode_get_security_status :
    decode .isoReq [0x02, 0x2C, 0x00, 0x03] = .ok (.getMultipleBlockSecurityStatus 0x02 none 0 4) := by decide
theorem test_decode_vendor_c0 : decode .isoReq [0x02, 0xC0, 0x04] = .ok (.vendorC0 0x02 none [0x04]) := by decide
theorem test_decode_vendor_c1 :
    decode .isoReq [0x22, 0xC1, 0x78, 0x56, 0x34, 0x12, 0x50, 0x01, 0x04, 0xE0, 0x04, 0x01] =
      .ok (.vendorC1 0x22 (some u) [0x04, 0x01]) := by decide
theorem test_decode_vendor_c2 : decode .isoReq [0x02, 0xC2] = .ok (.vendorC2 0x02 none []) := by decide
theorem test_decode_vendor_c3 :
    decode .isoReq [0x02, 0xC3, 0x04, 0x00] = .ok (.vendorC3 0x02 none [0x04, 0x00]) := by decide
theorem test_decode_vendor_c4 : decode .isoReq [0x02, 0xC4, 0x04] = .ok (.vendorC4 0x02 none [0x04]) := by decide
theorem test_decode_raw : decode .isoRaw [0x02, 0xA0, 0x04] = .ok (.raw 0xA0 0x02 none [0x04]) := by decide
theorem test_decode_write_register :
    decode .chipCmd [0x00, 0x03, 0xFF, 0xFF, 0x0F, 0x00] = .ok (.writeRegister 0x03 0x000FFFFF) := by decide
theorem test_decode_write_register_or_mask :
    decode .chipCmd [0x01, 0x00, 0x03, 0x00, 0x00, 0x00] = .ok (.writeRegisterOrMask 0x00 3) := by decide
theorem test_decode_write_register_and_mask :
    decode .chipCmd [0x02, 0x00, 0xF8, 0xFF, 0xFF, 0xFF] = .ok (.writeRegisterAndMask 0x00 0xFFFFFFF8) := by decide
theorem test_decode_read_register : decode .chipCmd [0x04, 0x13] = .ok (.readRegister 0x13) := by decide
theorem test_decode_read_eeprom : decode .chipCmd [0x07, 0x10, 0x02] = .ok (.readEeprom 0x10 2) := by decide
theorem test_decode_send_data :
    decode .chipCmd [0x09, 0x00, 0x26, 0x01, 0x00] = .ok (.sendData [0x26, 0x01, 0x00]) := by decide
theorem test_decode_read_data : decode .chipCmd [0x0A, 0x00] = .ok (.readData) := by decide
theorem test_reject_unknown_op : decode .hostReq [0x07] = .error (.unknownOp 0x07) := by decide
theorem test_reject_unknown_command : decode .isoReq [0x02, 0x2D] = .error (.unknownCommand 0x2D) := by decide
theorem test_reject_unknown_chip_opcode : decode .chipCmd [0x03, 0x00] = .error (.unknownChipOpcode 0x03) := by decide
theorem test_reject_left_over : decode .hostReq [0x05, 0x00] = .error (.operands 0x05) := by decide
theorem test_reject_missing_uid : decode .isoReq [0x22, 0x2B, 0x78] = .error (.operands 0x2B) := by decide

/-! ## One instruction at a time (95_test_vectors.md parts 2 to 6, programs P1 to P5) -/

/-- A register read's answer. -/
def val (v : Nat) : ChipAnswer := .returns (le32 (BitVec.ofNat 32 v))

/-- An answer nothing reads. -/
def junk : ChipAnswer := .returns (zeros 300)

/-- `n` reads of IRQ_STATUS with this value. -/
def irqs (n v : Nat) : List ChipAnswer := (List.replicate n [junk, val v]).flatten

/-- CLR, MODE_TX, RFST with WAIT_TRANSMIT, SendData. -/
def prep : List ChipAnswer := [junk, junk, junk, junk, val 0x01000000, junk]

/-- A whole transceive: RX start after `j` misses, RX complete after `k`, this frame. -/
def heardFrame (j k : Nat) (f : Bytes) : List ChipAnswer :=
  prep ++ irqs j 0x00000001 ++ irqs 1 0x00004000 ++ irqs k 0x00004000 ++ irqs 1 0x00004001 ++
    [junk, val f.length, junk, .returns f, junk]

/-- The state after reset with these answers to come. -/
def start (tape : List ChipAnswer) : State := { State.reset with chip_in := tape }

def other : Uid := ⟨1, 2, 3, 4, 5, 6, 7, 8⟩

/-- Four known bytes: blocks 5, 6 and 7 of `u`, and block 5 of `other`. -/
def four : Memory := [(slotAddr u 5, 1), (slotAddr u 6, 2), (slotAddr u 7 + 31, 3), (slotAddr other 5, 4)]

def nextOf : Host.Outcome State Fault Refusal → Option State
  | .next s => some s
  | _ => none

/-- What a request publishes, and the frame it sent: `txf`, `r_cls`, `r_code`, `r_flags`, `r_data`. -/
def published (i : Instr) (tape : List ChipAnswer) : Option (Bytes × Cls × Option Byte × Option Byte × Bytes) :=
  (nextOf (exec i (start tape))).map fun s => (s.txf, s.r_cls, s.r_code, s.r_flags, s.r_data)

/-- The bytes of the exchanges a passthrough request or a chip command makes, and what it leaves in `r_data`, `ret`. -/
def chipRun (i : Instr) (tape : List ChipAnswer) : Option (List Bytes × Cls × Bytes × Bytes) :=
  (nextOf (exec i (start tape))).map fun s => (s.log.map Xchg.tx, s.r_cls, s.r_data, s.ret)

theorem test_run_transceive :
    published (.transceive [0x26, 0x01, 0x00]) (heardFrame 0 0 [0x00, 0xAB]) =
      some ([0x26, 0x01, 0x00], .ok, none, some 0x00, [0xAB]) := by decide +kernel
theorem test_run_transceive_t5 :
    published (.transceive [0x26]) (prep ++ irqs 2 0 ++ [junk]) =
      some ([0x26], .noAnswer, none, some 0xFF, []) := by decide +kernel
theorem test_run_iso_cmd :
    published (.isoCmd 0x20 0x22 none (.block 1)) (heardFrame 0 0 [0x01, 0x10]) =
      some ([0x02, 0x20, 0x01], .tagError, some 0x10, some 0x01, [0x10]) := by decide +kernel
theorem test_run_iso_cmd_code :
    published (.isoCmd 0xA0 0x02 none .none) ([]) =
      some ([], .badRequest, none, none, []) := by decide +kernel
theorem test_run_mem_read :
    published (.memRead t4 2 3) (heardFrame 0 0 [0, 0, 0, 9, 9, 9, 0, 0, 0]) =
      some ([0x22, 0x23, 0x78, 0x56, 0x34, 0x12, 0x50, 0x01, 0x04, 0xE0, 0x00, 0x01], .ok, none, some 0x00, [9, 9, 9]) := by decide +kernel
theorem test_run_mem_read_short :
    published (.memRead t4 5 2) (heardFrame 0 0 [0x00, 0xA0, 0xA1]) =
      some ([0x22, 0x23, 0x78, 0x56, 0x34, 0x12, 0x50, 0x01, 0x04, 0xE0, 0x01, 0x00], .shortResponse, none, some 0x00,
        [0xA0, 0xA1]) := by decide +kernel
theorem test_run_mem_write :
    published (.memWrite t4 2 [9, 9, 9]) (heardFrame 0 0 [0x00] ++ heardFrame 1 2 [0x00]) =
      some ([0x22, 0x21, 0x78, 0x56, 0x34, 0x12, 0x50, 0x01, 0x04, 0xE0, 0x01, 9, 0, 0, 0], .ok, none, some 0x00, []) := by decide +kernel
theorem test_run_mem_write_fails :
    (nextOf (exec (.memWrite t4 22 [9, 9, 9]) (start (heardFrame 0 0 [0x00] ++ heardFrame 0 0 [0x01, 0x12])))).map
      (fun s => (s.r_cls, s.r_code, s.r_blk, tagBytesAt t4 20 8 s.tag_mem)) =
      some (.writeBlockError, some 0x12, some 6, [some 0, some 0, some 9, some 9, none, none, none, none]) := by
  decide +kernel
theorem test_run_iso_raw :
    published (.isoRaw 0x20 0x02 (some u) [0x05]) (heardFrame 0 0 [0x00, 0x11]) =
      some ([0x22, 0x20, 0x78, 0x56, 0x34, 0x12, 0x50, 0x01, 0x04, 0xE0, 0x05], .ok, none, some 0x00, [0x11]) := by decide +kernel
theorem test_run_inventory :
    published (.inventory) (heardFrame 0 0 [0x00, 0x00, 0x78, 0x56, 0x34, 0x12, 0x50, 0x01, 0x04, 0xE0]) =
      some ([0x26, 0x01, 0x00], .ok, none, some 0x00, [0x00, 0x78, 0x56, 0x34, 0x12, 0x50, 0x01, 0x04, 0xE0]) := by decide +kernel
theorem test_run_inventory_short :
    published (.inventory) (heardFrame 0 0 [0x00, 0x00, 0x78, 0x56, 0x34, 0x12]) =
      some ([0x26, 0x01, 0x00], .noAnswer, none, some 0x00,
        [0x00, 0x78, 0x56, 0x34, 0x12]) := by decide +kernel
theorem test_run_stay_quiet :
    published (.stayQuiet 0x02 none) (prep ++ irqs 2 0 ++ [junk]) =
      some ([0x02, 0x02], .noAnswer, none, some 0xFF, []) := by decide +kernel
theorem test_run_read_single_block :
    published (.readSingleBlock 0x00 (some u) 1) (heardFrame 0 0 [0x00, 1, 2, 3, 4]) =
      some ([0x20, 0x20, 0x78, 0x56, 0x34, 0x12, 0x50, 0x01, 0x04, 0xE0, 0x01], .ok, none, some 0x00, [1, 2, 3, 4]) := by decide +kernel
theorem test_run_write_single_block :
    published (.writeSingleBlock 0x02 none 7 [0xAA]) (heardFrame 0 0 [0x00, 0x55]) =
      some ([0x02, 0x21, 0x07, 0xAA], .ok, none, some 0x00, [0x55]) := by decide +kernel
theorem test_run_lock_block :
    published (.lockBlock 0x02 none 3) (heardFrame 0 0 [0x00]) =
      some ([0x02, 0x22, 0x03], .ok, none, some 0x00, []) := by decide +kernel
theorem test_run_read_multiple_block :
    published (.readMultipleBlock 0x02 (some u) 0 2) (heardFrame 0 0 [0x00, 1, 2]) =
      some ([0x22, 0x23, 0x78, 0x56, 0x34, 0x12, 0x50, 0x01, 0x04, 0xE0, 0x00, 0x01], .ok, none, some 0x00, [1, 2]) := by decide +kernel
theorem test_run_write_multiple_block :
    published (.writeMultipleBlock 0x02 none 0 2 [0x01]) (heardFrame 0 0 [0x00, 0xAA, 0xBB]) =
      some ([0x02, 0x24, 0x00, 0x01, 0x01], .ok, none, some 0x00, [0xAA, 0xBB]) := by decide +kernel
theorem test_run_write_multiple_block_mismatch :
    published (.writeMultipleBlock 0x02 none 0 2 [0x01]) (heardFrame 0 0 [0x00]) =
      some ([0x02, 0x24, 0x00, 0x01, 0x01], .multiWriteMismatch, none, some 0x00, []) := by decide +kernel
theorem test_run_select :
    published (.select 0x02 (some u)) (heardFrame 0 0 [0x00]) =
      some ([0x22, 0x25, 0x78, 0x56, 0x34, 0x12, 0x50, 0x01, 0x04, 0xE0], .ok, none, some 0x00, []) := by decide +kernel
theorem test_run_reset_to_ready :
    published (.resetToReady 0x02 none) (heardFrame 0 0 [0x00]) =
      some ([0x02, 0x26], .ok, none, some 0x00, []) := by decide +kernel
theorem test_run_write_afi :
    published (.writeAfi 0x02 none 2) (heardFrame 0 0 [0x01, 0x03]) =
      some ([0x02, 0x27, 0x02], .tagError, some 0x03, some 0x01, [0x03]) := by decide +kernel
theorem test_run_lock_afi :
    published (.lockAfi 0x02 none) (heardFrame 0 0 [0x00]) =
      some ([0x02, 0x28], .ok, none, some 0x00, []) := by decide +kernel
theorem test_run_write_dsfid :
    published (.writeDsfid 0x02 none 5) (heardFrame 0 0 [0x00]) =
      some ([0x02, 0x29, 0x05], .ok, none, some 0x00, []) := by decide +kernel
theorem test_run_lock_dsfid :
    published (.lockDsfid 0x02 none) (heardFrame 0 0 [0x08, 0x02, 0x99]) =
      some ([0x02, 0x2A], .tagError, some 0x02, some 0x08, [0x02, 0x99]) := by decide +kernel
theorem test_run_get_system_information :
    (nextOf (exec (.getSystemInformation 0x02 (some u))
      (start (heardFrame 0 0 [0x00, 0x07, 0x78, 0x56, 0x34, 0x12, 0x50, 0x01, 0x04, 0xE0, 0x05, 0x02, 0x0F, 0x03])))).map
      (fun s => (s.txf, s.r_cls, s.r_info)) =
      some ([0x22, 0x2B, 0x78, 0x56, 0x34, 0x12, 0x50, 0x01, 0x04, 0xE0], .ok, some ⟨5, 2, 16, 4⟩) := by decide +kernel
theorem test_run_get_system_information_short :
    published (.getSystemInformation 0x02 none) (heardFrame 0 0 [0x00, 0x04, 0x78, 0x56, 0x34, 0x12, 0x50, 0x01, 0x04, 0xE0, 0x3F]) =
      some ([0x02, 0x2B], .shortResponse, none, some 0x00, [0x04, 0x78, 0x56, 0x34, 0x12, 0x50, 0x01, 0x04, 0xE0, 0x3F]) := by decide +kernel
theorem test_run_get_security_status :
    published (.getMultipleBlockSecurityStatus 0x02 (some u) 10 1) (heardFrame 0 0 [0x00, 0x01]) =
      some ([0x22, 0x2C, 0x78, 0x56, 0x34, 0x12, 0x50, 0x01, 0x04, 0xE0, 0x0A, 0x00], .ok, none, some 0x00, [0x01]) := by decide +kernel
theorem test_run_vendor_c0 :
    published (.vendorC0 0x02 none [0x04]) (heardFrame 0 0 [0x00, 0x04]) =
      some ([0x02, 0xC0, 0x04], .ok, none, some 0x00, [0x04]) := by decide +kernel
theorem test_run_vendor_c1 :
    published (.vendorC1 0x02 (some u) [0x04, 0x01]) (heardFrame 0 0 [0x00, 0x04]) =
      some ([0x22, 0xC1, 0x78, 0x56, 0x34, 0x12, 0x50, 0x01, 0x04, 0xE0, 0x04, 0x01], .ok, none, some 0x00, [0x04]) := by decide +kernel
theorem test_run_vendor_c2 :
    published (.vendorC2 0x02 none []) (heardFrame 0 0 [0x00, 0x04]) =
      some ([0x02, 0xC2], .ok, none, some 0x00, [0x04]) := by decide +kernel
theorem test_run_vendor_c3 :
    published (.vendorC3 0x02 none [0x04, 0x00]) (heardFrame 0 0 [0x00, 0x04]) =
      some ([0x02, 0xC3, 0x04, 0x00], .ok, none, some 0x00, [0x04]) := by decide +kernel
theorem test_run_vendor_c4 :
    published (.vendorC4 0x02 none [0x04]) (heardFrame 0 0 [0x00, 0x04]) =
      some ([0x02, 0xC4, 0x04], .ok, none, some 0x00, [0x04]) := by decide +kernel
theorem test_run_raw :
    published (.raw 0x01 0x26 none [0x00]) (heardFrame 0 0 [0x00, 0x00]) =
      some ([0x06, 0x01, 0x00], .ok, none, some 0x00, [0x00]) := by decide +kernel
theorem test_run_chip_idle :
    chipRun (.chipIdle) ([junk, junk]) =
      some ([[0x00, 0x03, 0xFF, 0xFF, 0x0F, 0x00], [0x02, 0x00, 0xF8, 0xFF, 0xFF, 0xFF]], .ok, [], zeros 6) := by decide +kernel
theorem test_run_reg_write :
    chipRun (.regWrite 0x10 0x12345678) ([junk]) =
      some ([[0x00, 0x10, 0x78, 0x56, 0x34, 0x12]], .ok, [], zeros 6) := by decide +kernel
theorem test_run_reg_or :
    chipRun (.regOr 0x00 3) ([junk]) =
      some ([[0x01, 0x00, 0x03, 0x00, 0x00, 0x00]], .ok, [], zeros 6) := by decide +kernel
theorem test_run_reg_and :
    chipRun (.regAnd 0x00 0xFFFFFFF8) ([junk]) =
      some ([[0x02, 0x00, 0xF8, 0xFF, 0xFF, 0xFF]], .ok, [], zeros 6) := by decide +kernel
theorem test_run_reg_read :
    chipRun (.regRead 0x02) ([junk, val 0x00004001]) =
      some ([[0x04, 0x02], [0xFF, 0xFF, 0xFF, 0xFF]], .ok, [0x01, 0x40, 0x00, 0x00], [0x01, 0x40, 0x00, 0x00]) := by decide +kernel
theorem test_run_reg_read_fails :
    chipRun (.regRead 0x02) ([junk, .fails]) =
      some ([[0x04, 0x02], [0xFF, 0xFF, 0xFF, 0xFF]], .transportError, [], [0x00, 0x00]) := by decide +kernel
theorem test_run_eeprom_read :
    chipRun (.eepromRead 0x10 2) ([junk, .returns [0x12, 0x34]]) =
      some ([[0x07, 0x10, 0x02], [0xFF, 0xFF]], .ok, [0x12, 0x34], [0x12, 0x34]) := by decide +kernel
theorem test_run_eeprom_read_none :
    chipRun (.eepromRead 0x10 0) ([]) =
      some ([], .badRequest, [], []) := by decide +kernel
theorem test_run_write_register :
    chipRun (.writeRegister 0xFF 0xFFFFFFFF) ([junk]) =
      some ([[0x00, 0xFF, 0xFF, 0xFF, 0xFF, 0xFF]], .ok, [], zeros 6) := by decide +kernel
theorem test_run_write_register_or_mask :
    chipRun (.writeRegisterOrMask 0x00 0) ([junk]) =
      some ([[0x01, 0x00, 0x00, 0x00, 0x00, 0x00]], .ok, [], zeros 6) := by decide +kernel
theorem test_run_write_register_and_mask :
    chipRun (.writeRegisterAndMask 0x00 0xFFFFFFF8) ([junk]) =
      some ([[0x02, 0x00, 0xF8, 0xFF, 0xFF, 0xFF]], .ok, [], zeros 6) := by decide +kernel
theorem test_run_read_register :
    chipRun (.readRegister 0x13) ([junk, .returns [0x0B, 0, 0, 0]]) =
      some ([[0x04, 0x13], [0xFF, 0xFF, 0xFF, 0xFF]], .ok, [], [0x0B, 0, 0, 0]) := by decide +kernel
theorem test_run_read_eeprom :
    chipRun (.readEeprom 0x10 2) ([junk, .returns [0x12, 0x34]]) =
      some ([[0x07, 0x10, 0x02], [0xFF, 0xFF]], .ok, [], [0x12, 0x34]) := by decide +kernel
theorem test_run_send_data :
    chipRun (.sendData [0x26, 0x01, 0x00]) ([junk]) =
      some ([[0x09, 0x00, 0x26, 0x01, 0x00]], .ok, [], zeros 5) := by decide +kernel
/-- The blocks that frames name become unknown: block 5 addressed to `u`, and by WRITE_MULTIPLE_BLOCK 6 and 7. -/
theorem test_send_data_forgets :
    (nextOf (exec (.sendData ([0x22, 0x21] ++ u.bytes ++ [0x05, 0xAA])) { start [.fails] with tag_mem := four })).map
      (fun s => (s.tag_mem, s.fault)) = some (four.drop 1, .transport) ∧
    knownAfterFrame ([0x22, 0x24] ++ u.bytes ++ [0x06, 0x01, 0xAA]) four = [(slotAddr u 5, 1), (slotAddr other 5, 4)] ∧
    knownAfterFrame [0x02, 0x21, 0x05, 0xAA] four = [(slotAddr u 6, 2), (slotAddr u 7 + 31, 3)] ∧
    knownAfterFrame [0x02, 0x20, 0x05] four = four ∧ knownAfterFrame [0x02, 0xC0, 0x04] four = [] := by decide +kernel
/-- A write or lock of AFI or DSFID leaves nothing known of the tag addressed (70_reset_and_hazards.md R334). -/
theorem test_afi_write_forgets :
    knownAfterFrame ([0x22, 0x27] ++ u.bytes ++ [0x07]) four = [(slotAddr other 5, 4)] ∧
    knownAfterFrame ([0x22, 0x2A] ++ u.bytes) four = [(slotAddr other 5, 4)] ∧
    knownAfterFrame [0x02, 0x28] four = [] := by decide +kernel

/-- Nothing runs in FAULT, not even a frame at the chip port (60_exceptions.md R290). -/
theorem test_fault_runs_nothing :
    (nextOf (exec .readData { start [] with st := .fault, fault := .transport })).map (fun s => (s.st, s.log)) =
      some (.fault, []) ∧
    step { start [] with st := .fault, fault := .transport, chip_port := some [0x0A, 0x00] } =
      .fault (.latched .transport) := ⟨by decide +kernel, rfl⟩

theorem test_run_read_data :
    (nextOf (exec .readData { start [junk, .returns [0x00, 0xAB, 0xCD]] with rxn := 3 })).map
      (fun s => (s.log.map Xchg.tx, s.ret)) =
      some ([[0x0A, 0x00], [0xFF, 0xFF, 0xFF]], [0x00, 0xAB, 0xCD]) := by decide +kernel

/-! ## The paths of 95_test_vectors.md part 3, the decoder of part 5, the session of part 8 -/

/-- Exchanges, waits and result of a TRANSCEIVE of one byte. -/
def path (tape : List ChipAnswer) : Option (Nat × Nat × Cls × Bytes × St) :=
  (nextOf (exec (.transceive [0x26]) (start tape))).map fun s => (s.log.length, s.now, s.r_cls, s.r_data, s.st)

theorem test_path_t1 : path [junk, junk, junk, junk, val 0, junk] =
    some (6, 0, .protocolStateError, [0x00], .fault) := by decide +kernel
theorem test_path_t7 : path (prep ++ irqs 1 0x4000 ++ irqs 51 0 ++ [junk]) =
    some (111, 50, .noAnswer, [], .done) := by decide +kernel
theorem test_path_t9 : path (prep ++ irqs 1 0x4000 ++ irqs 1 0x4001 ++ [junk, val 0, junk]) =
    some (13, 0, .noAnswer, [], .done) := by decide +kernel
theorem test_path_t13 : path (heardFrame 1 50 [0x00, 0xAB]) = some (117, 51, .ok, [0xAB], .done) := by decide +kernel
theorem test_path_t18 : path [junk, junk, junk, junk, val 0, .fails] =
    some (6, 0, .transportError, [], .fault) := by decide +kernel

theorem test_system_info_masked : systemInfo ([0x04, 0x78, 0x56, 0x34, 0x12, 0x50, 0x01, 0x04, 0xE0] ++ [0xFF, 0xE3]) =
    some ⟨0, 0, 256, 4⟩ := by decide
theorem test_system_info_afi_only : systemInfo [0x02, 0x78, 0x56, 0x34, 0x12, 0x50, 0x01, 0x04, 0xE0, 0x09] =
    some ⟨0, 9, 0, 0⟩ := by decide
theorem test_map_plan : mapPlan 3 5 4 = ⟨2, 1, 6, 2⟩ ∧ mapPlan 32 8191 1 = ⟨31, 255, 32, 1⟩ := by decide

theorem test_text_mem_read : Instr.text (.memRead t4 2 3) =
    some "mem.read tag(uid=78:56:34:12:50:01:04:E0, bs=4, nb=16), 2, 3" := by decide +kernel
theorem test_text_iso : Instr.text (.writeSingleBlock 0x42 (some u) 0 [0x00, 0xAB]) =
    some "iso write_single_block flags=0x42 uid=78:56:34:12:50:01:04:E0 block=0 data=[00, AB]" := by decide +kernel

/-- A tick of the session from `session` with these answers to come: the session and the events. -/
def ticked (session : Session) (tape : List ChipAnswer) : Option (Session × List Event) :=
  (nextOf (step { start tape with host := [.tick], session := session })).map fun s => (s.session, s.events)

def found : List ChipAnswer := heardFrame 0 0 ([0x00, 0x00] ++ u.bytes)
def info : List ChipAnswer := heardFrame 0 0 ([0x00, 0x07] ++ u.bytes ++ [0x05, 0x02, 0x0F, 0x03])
def silent : List ChipAnswer := prep ++ irqs 2 0 ++ [junk]

theorem test_tick_s1 : ticked .noTag (found ++ info) = some (.tagPresent u 4 16, [.tagFound t4]) := by decide +kernel
theorem test_tick_s2 : ticked (.tagPresent u 4 16) found = some (.tagPresent u 4 16, []) := by decide +kernel
theorem test_tick_s3 : ticked (.tagPresent u 4 16) silent = some (.noTag, [.tagLost u]) := by decide +kernel
theorem test_tick_s4 : ticked (.tagPresent other 4 16) (found ++ info) =
    some (.tagPresent u 4 16, [.tagLost other, .tagFound t4]) := by decide +kernel

/-- Reset in the middle of a request: no result, no IDLE exchange (part 8). -/
theorem test_reset_mid_request :
    (nextOf (exec .inventory { start found with rst := [12] })).map
      (fun s => (s.st, s.rsp_valid, s.now, s.log.length, s.rst)) = some (.ready, false, 0, 6, []) := by decide +kernel

/-! ## Witnesses -/

/-- A next state, and what holds of it. -/
theorem next_with {o : Host.Outcome State Fault Refusal} {p : State → Bool} (h : (nextOf o).map p = some true) :
    ∃ t : State, o = .next t ∧ p t = true := by
  cases o with
  | next t => exact ⟨t, rfl, by simpa [nextOf] using h⟩
  | fault r => cases h
  | refused r => cases h

/-- The largest well-formed operands of each format. -/
theorem witness_DecodeEncode :
    Instr.wellFormed (.transceive (zeros 260)) = true ∧
    Instr.wellFormed (.isoCmd 0x24 0x02 (some u) (.rangeData 255 256 (zeros 248))) = true ∧
    Instr.wellFormed (.memWrite ⟨u, 65535, 65535⟩ 0xFFFF (zeros 300)) = true ∧
    Instr.wellFormed (.readMultipleBlock 0x22 (some u) 255 256) = true ∧
    Instr.wellFormed (.raw 0xFF 0x02 none (zeros 258)) = true ∧
    Instr.wellFormed (.sendData (zeros 260)) = true := by decide +kernel

theorem witness_FramesHaveOneReading :
    decode .chipCmd [0x07, 0x10, 0x00] = .ok (.readEeprom 0x10 0) ∧
    decode .isoReq [0x02, 0x2C, 0x00, 0xFF] = .ok (.getMultipleBlockSecurityStatus 0x02 none 0 256) ∧
    decode .isoRaw [0xFF, 0x00, 1, 2, 3, 4, 5, 6, 7, 8] = .ok (.raw 0x00 0xFF (some other) []) := by decide

/-- HOST presents CHIP_IDLE. -/
def idleAsked : State := { start [junk, junk] with host := [.record .hostReq [0x05]] }

theorem witness_StepKeepsInvariant : idleAsked.Inv ∧ ∃ t : State, step idleAsked = .next t := by
  refine ⟨by unfold State.Inv; decide +kernel, ?_⟩
  obtain ⟨t, h, -⟩ := next_with (o := step idleAsked) (p := fun _ => true) (by decide +kernel)
  exact ⟨t, h⟩

theorem witness_StepRunsDecoded :
    idleAsked.rst.head? ≠ some 0 ∧ Instr.wellFormed .chipIdle = true ∧
    idleAsked.host = .record .hostReq [0x05] :: [] ∧ idleAsked.chip_port = none ∧ idleAsked.req_ready = true ∧
    decodeRecord .hostReq [0x05] = .ok .chipIdle ∧
    Instr.wellFormed .readData = true ∧ decode .chipCmd [0x0A, 0x00] = .ok .readData ∧
    ({ start [] with chip_port := some [0x0A, 0x00], rst := [1] } : State).st ≠ .fault ∧
    ({ start [] with chip_port := some [0x0A, 0x00], rst := [1] } : State).rst.head? ≠ some 0 := by decide +kernel

theorem witness_ResetTaken :
    ({ idleAsked with rst := [0] } : State).rst = 0 :: [] ∧
    ({ idleAsked with rst := [0, 0], st := .xBSample } : State).rst = 0 :: [0] := by decide

theorem witness_FaultStateHolds :
    ({ idleAsked with st := .fault, fault := .transport } : State).st = .fault ∧
    ({ idleAsked with st := .fault, fault := .transport } : State).rst = [] ∧
    ({ idleAsked with st := .fault, fault := .protocolState, rst := [1] } : State).rst = (0 + 1) :: [] := by decide

theorem witness_RequestHeld :
    isChipCommand .inventory = false ∧
    ({ idleAsked with st := .fault, fault := .transport } : State).req_ready = false ∧
    ({ idleAsked with st := .xAWait } : State).req_ready = false := by decide

/-! ### Passthrough requests and chip commands: a ready unit, the exchange returning and failing -/

theorem witness_RegWriteEnds :
    (start [junk]).req_ready = true ∧ (start [junk]).rst = [] ∧
    (start [junk]).allReturn [[0x00, 0xFF] ++ le32 1] = true ∧
    (start [.fails]).allReturn [[0x00, 0xFF] ++ le32 1] = false := by decide +kernel

theorem witness_RegMasksEnd :
    (start [junk]).req_ready = true ∧ (start [junk]).rst = [] ∧
    (start [junk]).allReturn [[0x01, 0x00] ++ le32 3] = true ∧
    (start [.fails]).allReturn [[0x02, 0x00] ++ le32 3] = false := by decide +kernel

theorem witness_RegReadEnds :
    (start [junk, val 5]).req_ready = true ∧ (start [junk, val 5]).rst = [] ∧
    (start [junk, val 5]).allReturn (readTx 0x02) = true ∧ (start [junk, .fails]).allReturn (readTx 0x02) = false := by
  decide +kernel

theorem witness_EepromReadEnds :
    (start [junk, junk]).req_ready = true ∧ (start [junk, junk]).rst = [] ∧ (1 : Byte) ≠ 0 ∧ (255 : Byte) ≠ 0 ∧
    (start [junk, junk]).allReturn [[0x07, 0x10, 255], List.replicate 255 0xFF] = true := by decide +kernel

theorem witness_ChipIdleEnds :
    (start [junk, junk]).req_ready = true ∧ (start [junk, junk]).rst = [] ∧
    (start [junk, junk]).allReturn [clearIrqTx, modeAndTx] = true ∧
    (start [junk, .fails]).allReturn [clearIrqTx, modeAndTx] = false := by decide +kernel

theorem witness_ChipIdleTwice :
    ∃ s t u : State, s.req_ready = true ∧ s.rst = [] ∧ exec .chipIdle s = .next t ∧ t.r_cls = .ok ∧
      exec .chipIdle t = .next u ∧ u.r_cls = .ok := by
  obtain ⟨t, h1, h2⟩ := next_with (o := exec .chipIdle (start [junk, junk, junk, junk]))
    (p := fun t => decide (t.r_cls = .ok) && decide ((nextOf (exec .chipIdle t)).map (fun u => u.r_cls) = some .ok))
    (by decide +kernel)
  rw [Bool.and_eq_true, decide_eq_true_eq, decide_eq_true_eq] at h2
  obtain ⟨u, h3, h4⟩ := next_with (o := exec .chipIdle t) (p := fun u => decide (u.r_cls = .ok)) (by
    have := h2.2
    cases hu : nextOf (exec .chipIdle t) with
    | none => rw [hu] at this; cases this
    | some u => rw [hu] at this; simpa using this)
  exact ⟨_, t, u, by decide, rfl, h1, h2.1, h3, by simpa using h4⟩

theorem witness_ChipWritesRun :
    (start [junk]).rst = [] ∧ (start [junk]).st ≠ .fault ∧ (start [junk]).allReturn [[0x02, 0x00] ++ le32 0xFFFFFFF8] = true ∧
    (start [.fails]).allReturn [[0x02, 0x00] ++ le32 0xFFFFFFF8] = false := by decide +kernel

theorem witness_ChipReadsRun :
    (start [junk, junk]).rst = [] ∧ (start [junk, junk]).st ≠ .fault ∧ (255 : Byte) ≠ 0 ∧ (0 : Byte) = 0 ∧ (start []).rxn = 0 ∧
    ({ start [junk, junk] with rxn := 511 } : State).rxn ≠ 0 ∧
    (start [junk, junk]).allReturn (readTx 0x13) = true := by decide +kernel

theorem witness_ChipSendRuns :
    (start [junk]).rst = [] ∧ (start [junk]).st ≠ .fault ∧
    (start [junk]).allReturn [[0x09, 0x00] ++ [0x26]] = true ∧
    (start [junk]).allReturn [[0x09, 0x00] ++ zeros 260] = true ∧
    (start [.fails]).allReturn [[0x09, 0x00] ++ [0x26]] = false := by decide +kernel

/-- A value that agrees with what is known of its register. -/
theorem witness_ChipRegistersCommanded :
    (0x12345678 : Word) &&& (chipReg 0x13 [(0x13, ⟨0xFFFF, 0x5678⟩)]).known =
      (chipReg 0x13 [(0x13, ⟨0xFFFF, 0x5678⟩)]).value &&& (chipReg 0x13 [(0x13, ⟨0xFFFF, 0x5678⟩)]).known ∧
    (0x14 : Byte) ≠ 0x13 := by decide

/-! ### Requests that end before any exchange -/

theorem witness_EarlyEnds :
    (start []).req_ready = true ∧ (start []).rst = [] ∧
    earlyEnd (.memRead ⟨u, 0, 0⟩ 100 0) = some .geometryError ∧ earlyEnd (.memRead t4 62 3) = some .rangeError ∧
    earlyEnd (.memRead t4 64 0) = some .ok ∧ earlyEnd (.memWrite ⟨u, 33, 16⟩ 0 [1]) = some .geometryError ∧
    earlyEnd (.memWrite t4 61 [1, 2, 3, 4]) = some .rangeError ∧ earlyEnd (.memWrite t4 0 []) = some .ok ∧
    earlyEnd (.eepromRead 0x10 0) = some .badRequest ∧ earlyEnd (.transceive []) = some .badRequest ∧
    earlyEnd (.isoCmd 0xA0 0x02 none .none) = some .badRequest ∧
    earlyEnd (.writeSingleBlock 0x02 none 0 []) = some .badRequest := by decide +kernel

theorem long_data_refused {d : Bytes} (h : 65535 < d.length) :
    earlyEnd (.memWrite t4 0 d) = some .badRequest := if_pos h

theorem witness_EarlyEnds_long : ∃ d : Bytes, earlyEnd (.memWrite t4 0 d) = some .badRequest :=
  ⟨zeros 65536, long_data_refused (by rw [zeros, List.length_replicate]; decide)⟩

theorem witness_IllegalRecordEnds :
    ({ start [] with host := [.record .hostReq [0x07]] } : State).host = .record .hostReq [0x07] :: [] ∧
    (start []).chip_port = none ∧ (start []).req_ready = true ∧ (start []).rst = [] ∧
    decodeRecord .hostReq [0x07] = .error (.unknownOp 0x07) ∧
    decodeRecord .hostReq [0x05, 0x00] = .error (.operands 0x05) ∧
    decodeRecord .chipCmd [0x0A, 0x00] = .error .empty := by decide

theorem witness_UnknownOpRefused :
    (0x07 : Byte) ∉ [0x01, 0x02, 0x03, 0x04, 0x05, 0x06, 0x10, 0x11, 0x12, 0x13, (0x14 : Byte)] ∧
    (0x00 : Byte) ∉ [0x01, 0x02, 0x03, 0x04, 0x05, 0x06, 0x10, 0x11, 0x12, 0x13, (0x14 : Byte)] := by decide

/-! ### The paths of a transceive -/

/-- A frame for every kind of request of one transceive. -/
theorem witness_frames :
    frameOf (.transceive [0x26]) = some [0x26] ∧ frameOf .inventory = some [0x26, 0x01, 0x00] ∧
    frameOf (.isoCmd 0x2B 0x22 none .none) = some [0x02, 0x2B] ∧
    frameOf (.isoRaw 0xA0 0x02 none [0x04]) = some [0x02, 0xA0, 0x04] ∧
    frameOf (.memRead t4 2 3) = some ([0x22, 0x23] ++ u.bytes ++ [0x00, 0x01]) ∧
    frameOf (.memRead ⟨u, 1, 256⟩ 0 256) = some ([0x22, 0x23] ++ u.bytes ++ [0x00, 0xFF]) ∧
    (frameOf (.writeMultipleBlock 0x02 (some u) 0 1 (zeros 248))).isSome = true ∧
    (frameOf (.vendorC4 0x02 none (zeros 258))).isSome = true := by decide +kernel

theorem witness_FrameReceived :
    (start (heardFrame 0 0 [0x00])).req_ready = true ∧ (start (heardFrame 0 0 [0x00])).rst = [] ∧
    (Heard.frame 0 0).heard [0x26] (start (heardFrame 0 0 [0x00])) ∧
    (Heard.frame 1 50).heard [0x26] (start (heardFrame 1 50 (zeros 511))) := by
  unfold Heard.heard startsAfter endsAfter
  decide +kernel

theorem witness_NoRxStart :
    (start silent).req_ready = true ∧ (start silent).rst = [] ∧ Heard.silent.heard [0x26] (start silent) := by
  unfold Heard.heard
  decide +kernel

theorem witness_NoRxComplete :
    (Heard.started 0).heard [0x26] (start (prep ++ irqs 1 0x4000 ++ irqs 51 0 ++ [junk])) ∧
    (Heard.started 1).heard [0x26] (start (prep ++ irqs 1 0 ++ irqs 1 0x4000 ++ irqs 51 0x4000 ++ [junk])) := by
  unfold Heard.heard startsAfter
  decide +kernel

theorem witness_EmptyResponse :
    (Heard.empty 0 0).heard [0x26] (start (prep ++ irqs 1 0x4000 ++ irqs 1 1 ++ [junk, val 0, junk])) ∧
    (Heard.empty 1 50).heard [0x26]
      (start (prep ++ irqs 1 0 ++ irqs 1 0x4000 ++ irqs 50 0 ++ irqs 1 1 ++ [junk, val 0x200, junk])) := by
  unfold Heard.heard startsAfter endsAfter
  decide +kernel

theorem witness_PathsCover :
    117 ≤ (start (heardFrame 1 50 [0x00])).chip_in.length ∧
    (∀ a ∈ (start (heardFrame 1 50 [0x00])).chip_in.take 117, a ≠ .fails) ∧
    (valueAt 4 (start (heardFrame 1 50 [0x00]))).extractLsb' 24 3 = 1 := by decide +kernel

/-- The RF_STATUS read shows the transceive state 7; the return to IDLE succeeds, or fails. -/
def notWaiting (last : ChipAnswer) : State := start [junk, junk, junk, junk, val 0x07000000, last]

theorem witness_NotWaitTransmit :
    frameOf (.transceive [0x26]) = some [0x26] ∧ (notWaiting junk).req_ready = true ∧ (notWaiting junk).rst = [] ∧
    (notWaiting junk).allReturn prepareTx = true ∧
    (valueAt 4 (notWaiting junk)).extractLsb' 24 3 ≠ (1 : BitVec 3) ∧
    (notWaiting junk).allReturn (prepareTx ++ [modeAndTx]) = true ∧
    (notWaiting .fails).allReturn prepareTx = true ∧
    (notWaiting .fails).allReturn (prepareTx ++ [modeAndTx]) = false := by decide +kernel

theorem witness_MnemonicsAreIsoCmd :
    mnemonicOf (.lockAfi 0x02 none) = some (0x28, 0x02, none, .none) ∧
    mnemonicOf .inventory = some (0x01, 0x02, none, .none) ∧ (start []).req_ready = true ∧ (start []).rst = [] := by
  decide

/-! ### What every request does -/

theorem witness_EveryRequestEnds : isChipCommand .inventory = false ∧ (start []).req_ready = true := by decide

/-- A request that sends its frame and ends OK, to an idle chip. -/
theorem witness_SendNeedsWaitTransmit :
    isChipCommand .inventory = false ∧ (start found).req_ready = true ∧
    ∃ t : State, exec .inventory (start found) = .next t ∧ t.log.any isSend = true :=
  ⟨by decide, by decide, next_with (by decide +kernel)⟩

theorem witness_CleanupContract :
    isChipCommand .inventory = false ∧ waitBound .inventory ≠ 0 ∧ (start found).req_ready = true ∧
    (start found).rst = [] ∧
    (∃ t : State, exec .inventory (start found) = .next t ∧ t.commandedIdle = true) ∧
    (∃ t : State, exec .inventory (start (prep.dropLast ++ [.fails])) = .next t ∧
      decide (t.fault = .transport) = true) ∧
    ∃ t : State, exec (.memWrite t4 2 [9, 9, 9]) (start (heardFrame 0 0 [0x00] ++ prep.dropLast ++ [.fails])) = .next t ∧
      (decide (t.fault = .transport) && decide ((t.log.map Xchg.tx).count modeOrTx = 2)) = true :=
  ⟨by decide, by decide, by decide, by decide, next_with (by decide +kernel), next_with (by decide +kernel),
    next_with (by decide +kernel)⟩

theorem witness_FaultsRecorded :
    isChipCommand .inventory = false ∧ (notWaiting junk).req_ready = true ∧
    (∃ t : State, exec .inventory (notWaiting junk) = .next t ∧ decide (t.fault = .protocolState) = true) ∧
    (∃ t : State, exec .inventory (notWaiting .fails) = .next t ∧ decide (t.fault = .transport) = true) ∧
    ∃ t : State, exec .inventory (start found) = .next t ∧ decide (t.fault = .none) = true :=
  ⟨by decide, by decide, next_with (by decide +kernel), next_with (by decide +kernel), next_with (by decide +kernel)⟩

/-- Both chunks of P2's write are acknowledged; then its read's reply. -/
def p2 : State :=
  start (heardFrame 0 0 [0x00] ++ heardFrame 1 2 [0x00] ++ heardFrame 0 0 [0, 0, 0, 9, 9, 9, 0, 0, 0])

theorem witness_ResetDuringRequest :
    isChipCommand .inventory = false ∧ ({ start found with rst := [12] } : State).req_ready = true ∧
    (∃ t : State, exec .inventory { start found with rst := [12] } = .next t ∧ decide (t.st = .ready) = true) ∧
    keepsTagMemory .inventory = true ∧ frameOf (.vendorC0 0x02 none []) = some [0x02, 0xC0] ∧
    frameOf (.transceive []) = none ∧
    ∃ t : State, exec (.memWrite t4 2 [9, 9, 9]) { p2 with rst := [40] } = .next t ∧
      (decide (t.st = .ready) && decide (memRead (blockAddr t4 0 + 2) t.tag_mem = some 9)) = true :=
  ⟨by decide, by decide, next_with (by decide +kernel), by decide, by decide, by decide, next_with (by decide +kernel)⟩

theorem witness_HostSideKept : ∃ t : State, exec .inventory (start found) = .next t ∧ true = true :=
  next_with (p := fun _ => true) (by decide +kernel)

/-- Something is known of two registers before the request. -/
def configured : State := { start found with chip_img := [(0, ⟨0xFFFFFFFF, 0x12345678⟩), (1, ⟨0xFF, 0x12⟩)] }

theorem witness_SetModeKeepsOtherBits :
    isChipCommand .inventory = false ∧ waitBound .inventory ≠ 0 ∧ configured.req_ready = true ∧ configured.rst = [] ∧
    ∃ t : State, exec .inventory configured = .next t ∧ decide (t.fault ≠ .transport) = true :=
  ⟨by decide, by decide, by decide, by decide, next_with (by decide +kernel)⟩

/-! ### Tag memory -/

/-- One byte of the tag's memory is known. -/
def remembered : State := { start found with tag_mem := [(tagAddr t4 5, 0xAA)] }

theorem witness_TagMemoryKept :
    keepsTagMemory .inventory = true ∧ keepsTagMemory (.memRead t4 2 3) = true ∧ keepsTagMemory .readData = true ∧
    keepsTagMemory (.isoRaw 0x23 0x02 none [0, 1]) = true ∧ keepsTagMemory (.transceive [0x02, 0x20, 0x05]) = true ∧
    keepsTagMemory (.sendData [0x26, 0x01, 0x00]) = true ∧
    ∃ t : State, exec .inventory remembered = .next t ∧ decide (memRead (tagAddr t4 5) t.tag_mem = some 0xAA) = true :=
  ⟨by decide, by decide, by decide, by decide, by decide, by decide, next_with (by decide +kernel)⟩

theorem witness_FrameLeavesKnown :
    (0x23 : Byte) ∈ readingCodes ∧
    (0xC0 : Byte) ∉ readingCodes ++ [0x21, 0x22, 0x24, 0x27, 0x28, 0x29, 0x2A] ∧ (255 : Byte).toNat + (0 : Byte).toNat < 256 ∧
    (0 : Byte).toNat + (255 : Byte).toNat < 256 ∧ memRead (slotAddr u 255 + 31) [(slotAddr u 255 + 31, 7)] = some 7 := by
  decide

theorem witness_MapperCovers :
    memReaches t4 2 3 = true ∧ memReaches ⟨u, 1, 256⟩ 0 256 = true ∧ memReaches ⟨u, 32, 256⟩ 8191 1 = true ∧
    memReaches ⟨u, 32, 256⟩ 0 8192 = true := by decide

theorem witness_MemWriteCompletes :
    memReaches t4 (2 : Half).toNat [(9 : Byte), 9, 9].length = true ∧ p2.req_ready = true ∧ p2.rst = [] ∧
    [(0, 0), (1, 2)].length = writeBlocks t4 2 [9, 9, 9] ∧
    chunksAcked t4 2 [9, 9, 9] 0 [(0, 0), (1, 2)] (p2.writeStarted t4 2 [9, 9, 9]) := by
  refine ⟨by decide, by decide, by decide, by decide, ?_⟩
  unfold chunksAcked chunksAcked chunksAcked Heard.heard startsAfter endsAfter
  decide +kernel

/-- The second chunk is answered with an error. -/
def p4 (r : Bytes) : State := start (heardFrame 0 0 [0x00] ++ heardFrame 0 0 r)

/-- The state when the second chunk is sent. -/
def p4sent (r : Bytes) : State :=
  afterChunks t4 2 [9, 9, 9] 0 [(0, 0)] ((p4 r).writeStarted t4 2 [9, 9, 9])

theorem witness_MemWriteChunkFails :
    memReaches t4 (2 : Half).toNat [(9 : Byte), 9, 9].length = true ∧ (p4 [0x01, 0x12]).req_ready = true ∧
    (p4 [0x01, 0x12]).rst = [] ∧ [(0, 0)].length < writeBlocks t4 2 [9, 9, 9] ∧
    chunksAcked t4 2 [9, 9, 9] 0 [(0, 0)] ((p4 [0x01, 0x12]).writeStarted t4 2 [9, 9, 9]) ∧
    (Heard.frame 0 0).heard (chunkTx t4 2 [9, 9, 9] 1) (p4sent [0x01, 0x12]) ∧
    chunkReply 1
      ((Heard.frame 0 0).after (chunkTx t4 2 [9, 9, 9] 1) (p4sent [0x01, 0x12])).tflags
      ((Heard.frame 0 0).after (chunkTx t4 2 [9, 9, 9] 1) (p4sent [0x01, 0x12])).tpayload
      = some ⟨.writeBlockError, some 0x12, some 1, some 0x01, [0x12], none, none, none⟩ := by
  refine ⟨by decide, by decide, by decide, by decide, ?_, ?_, by decide +kernel⟩
  · unfold chunksAcked chunksAcked Heard.heard startsAfter endsAfter
    decide +kernel
  · unfold Heard.heard startsAfter endsAfter
    decide +kernel

/-- The NO_ANSWER row: the second chunk is not answered. -/
theorem witness_MemWriteChunkFails_noAnswer :
    Heard.silent.heard (chunkTx t4 2 [9, 9, 9] 1)
      (afterChunks t4 2 [9, 9, 9] 0 [(0, 0)]
        ((start (heardFrame 0 0 [0x00] ++ silent)).writeStarted t4 2 [9, 9, 9])) ∧
    chunksAcked t4 2 [9, 9, 9] 0 [(0, 0)] ((start (heardFrame 0 0 [0x00] ++ silent)).writeStarted t4 2 [9, 9, 9]) ∧
    chunkReply 1 0xFF [] = some ⟨.noAnswer, none, some 1, some 0xFF, [], none, none, none⟩ := by
  refine ⟨?_, ?_, by decide⟩
  · unfold Heard.heard
    decide +kernel
  · unfold chunksAcked chunksAcked Heard.heard startsAfter endsAfter
    decide +kernel

theorem witness_MemWriteStores :
    memReaches t4 (2 : Half).toNat [(9 : Byte), 9, 9].length = true ∧ p2.req_ready = true ∧
    (∃ t : State, exec (.memWrite t4 2 [9, 9, 9]) p2 = .next t ∧ (decide (t.st = .done) && decide (t.r_cls = .ok)) = true) ∧
    ∃ t : State, exec (.memWrite t4 2 [9, 9, 9]) (p4 [0x01, 0x12]) = .next t ∧
      (decide (t.st = .done) && decide (t.r_blk = some 1)) = true :=
  ⟨by decide, by decide, next_with (by decide +kernel), next_with (by decide +kernel)⟩

theorem witness_MemWritePads :
    memReaches t4 (2 : Half).toNat [(9 : Byte), 9, 9].length = true ∧ p2.req_ready = true ∧
    (∃ t : State, exec (.memWrite t4 2 [9, 9, 9]) p2 = .next t ∧ (decide (t.st = .done) && decide (t.r_cls = .ok)) = true) ∧
    (2 : Half).toNat / t4.bs * t4.bs ≤ 0 ∧ 7 < ((2 : Half).toNat / t4.bs + writeBlocks t4 2 [9, 9, 9]) * t4.bs :=
  ⟨by decide, by decide, next_with (by decide +kernel), by decide, by decide⟩

/-- The state after P2's write. -/
def p2written : State := (nextOf (exec (.memWrite t4 2 [9, 9, 9]) p2)).getD State.reset

theorem witness_MemRoundTrip :
    memReaches t4 (2 : Half).toNat [(9 : Byte), 9, 9].length = true ∧ p2.req_ready = true ∧
    exec (.memWrite t4 2 [9, 9, 9]) p2 = .next p2written ∧ p2written.st = .done ∧ p2written.r_cls = .ok ∧
    p2written.rst = [] ∧ (Heard.frame 0 0).heard (memReadBytes t4 2 3) p2written ∧
    frameAt 0 0 p2written = 0x00 :: [0, 0, 9, 9, 9, 0, 0, 0] ∧
    (2 : Half).toNat % t4.bs + [(9 : Byte), 9, 9].length ≤ [(0 : Byte), 0, 9, 9, 9, 0, 0, 0].length ∧
    ∀ x < 8, tagByte t4 ((2 : Half).toNat / t4.bs * t4.bs + x) p2written = [(0 : Byte), 0, 9, 9, 9, 0, 0, 0][x]? := by
  refine ⟨by decide, by decide, ?_, by decide +kernel, by decide +kernel, by decide +kernel, ?_, by decide +kernel,
    by decide, by decide +kernel⟩
  · obtain ⟨t, h, -⟩ := next_with (o := exec (.memWrite t4 2 [9, 9, 9]) p2) (p := fun _ => true) (by decide +kernel)
    rw [p2written, h]; rfl
  · unfold Heard.heard startsAfter endsAfter
    decide +kernel

/-! ### Replies -/

theorem witness_Arbitration : (0xFF : Byte) = 0xFF ∧ (0x01 : Byte) ≠ 0xFF ∧ (0x01 : Byte) ≠ 0x00 := by decide

theorem witness_ShortInventory : ([] : Bytes).length < 9 ∧ (zeros 8).length < 9 := by decide

theorem witness_MultiWriteReply :
    (decodeReply (.writeMultipleBlock 0x02 none 0 2 [1]) 0x00 [0xAA, 0xBB]).cls = .ok ∧
    (decodeReply (.writeMultipleBlock 0x02 none 0 2 [1]) 0x00 []).cls = .multiWriteMismatch := by decide

theorem witness_SystemInfoReply :
    (zeros 12).length < infoLength 0x07 ∧ infoLength 0x07 ≤ (zeros 13).length ∧ infoLength 0xF8 ≤ (zeros 9).length ∧
    (0x01 : Byte) ≠ 0x00 ∧ (0x07 : Byte).getLsbD 2 = true ∧ (0xF8 : Byte).getLsbD 2 = false := by decide

theorem witness_Messages :
    (0xA3 : Byte) ∉ [0x01, 0x02, 0x03, 0x0F, 0x10, 0x11, 0x12, 0x13, (0x14 : Byte)] ∧
    (errorText 0x0B).toList = ['0', 'x', '0', 'B'] := by decide +kernel

/-! ### The session -/

/-- HOST asks for a tick, with this session and these answers to come. -/
def tickAsked (session : Session) (tape : List ChipAnswer) : State :=
  { start tape with host := [.tick], session := session }

/-- The tick's INVENTORY. -/
def inventoried (session : Session) (tape : List ChipAnswer) : Option State :=
  nextOf (exec .inventory { tickAsked session tape with host := [] })

theorem witness_TickOutcome :
    (tickAsked .noTag found).host = .tick :: [] ∧ (tickAsked .noTag found).req_ready = true ∧
    (tickAsked .noTag found).rst = [] ∧ (tickAsked .noTag found).chip_port = none ∧
    (inventoried .noTag [.fails]).map (fun s => decide (s.fault ≠ .none)) = some true ∧
    (inventoried (.tagPresent u 4 16) found).map (fun s => (s.fault, s.r_cls, s.r_uid)) =
      some (.none, .ok, some u) ∧
    (inventoried (.tagPresent u 4 16) silent).map (fun s => (s.fault, s.r_cls)) = some (.none, .noAnswer) ∧
    ((inventoried (.tagPresent other 4 16) (found ++ info)).bind
      fun s => nextOf (exec (.getSystemInformation 0x02 (some u)) { s with session := .noTag })).map
        (fun s => (s.r_cls, s.r_info)) = some (.ok, some ⟨5, 2, 16, 4⟩) ∧
    ((inventoried .noTag (found ++ silent)).bind
      fun s => nextOf (exec (.getSystemInformation 0x02 (some u)) { s with session := .noTag })).map
        (fun s => s.r_cls) = some .noAnswer := by decide +kernel

theorem witness_TickEvents :
    (tickAsked (.tagPresent other 4 16) (found ++ info)).host = .tick :: [] ∧
    (tickAsked (.tagPresent other 4 16) (found ++ info)).req_ready = true ∧
    (tickAsked (.tagPresent other 4 16) (found ++ info)).rst.head? ≠ some 0 ∧
    (tickAsked (.tagPresent other 4 16) (found ++ info)).chip_port = none ∧
    ∃ t : State, step (tickAsked (.tagPresent other 4 16) (found ++ info)) = .next t ∧
      decide (t.events = [.tagLost other, .tagFound t4]) = true :=
  ⟨by decide, by decide, by decide, by decide, next_with (by decide +kernel)⟩

end Sys2Proof.Tests
end

section
/-!
PROOFS. Byte order of register values (00_scope.md R9): `u32le` is the concatenation of its four bytes, last byte
highest, and `le32` cuts such a concatenation at the same places, so each undoes the other.
-/

namespace Sys2Proof.Proofs

open Sys2Proof

/-- The shifts and ors of `u32le` put the four bytes side by side. -/
theorem u32le_eq_append (b0 b1 b2 b3 : Byte) : u32le [b0, b1, b2, b3] = b3 ++ b2 ++ b1 ++ b0 := by
  have or_reverse (a b c d : Word) : a ||| b ||| c ||| d = d ||| c ||| b ||| a := by ac_rfl
  calc u32le [b0, b1, b2, b3]
    _ = b0.setWidth 32 ||| b1.setWidth 32 <<< 8 ||| b2.setWidth 32 <<< 16 ||| b3.setWidth 32 <<< 24 := rfl
    _ = b3.setWidth 32 <<< (8 + 8 + 8) ||| b2.setWidth 32 <<< (8 + 8) ||| b1.setWidth 32 <<< 8
          ||| b0.setWidth 32 := or_reverse ..
    _ = (b3 ++ b2 ++ b1 ++ b0).setWidth 32 :=
      BitVec.setWidth_append_append_append_eq_shiftLeft_setWidth_or.symm
    _ = b3 ++ b2 ++ b1 ++ b0 := BitVec.setWidth_eq _

/-- The bytes are cut out with the width kept as the sum `8 + 8 + 8 + 8`: the library's rules on `extractLsb'` of `++`
do not match once it reads 32. -/
theorem le32_append (b0 b1 b2 b3 : Byte) : le32 (b3 ++ b2 ++ b1 ++ b0) = [b0, b1, b2, b3] := by
  calc le32 (b3 ++ b2 ++ b1 ++ b0)
    _ = [(b3 ++ b2 ++ b1 ++ b0).extractLsb' 0 8, (b3 ++ b2 ++ b1 ++ b0).extractLsb' 8 8,
          (b3 ++ b2 ++ b1 ++ b0).extractLsb' 16 8, (b3 ++ b2 ++ b1 ++ b0).extractLsb' 24 8] := rfl
    _ = [b0, b1, b2, b3] := by
      simp (disch := decide) only [BitVec.extractLsb'_append_eq_of_le, BitVec.extractLsb'_append_eq_of_add_le,
        BitVec.extractLsb'_eq_self, Nat.reduceSub]

@[simp] theorem u32le_le32 (v : Word) : u32le (le32 v) = v := by
  calc u32le (le32 v)
    _ = v.extractLsb' 24 8 ++ v.extractLsb' 16 8 ++ v.extractLsb' 8 8 ++ v.extractLsb' 0 8 :=
      u32le_eq_append ..
    _ = v.extractLsb' 0 32 := by
      rw [BitVec.extractLsb'_append_extractLsb'_eq_extractLsb' (by rfl),
        BitVec.extractLsb'_append_extractLsb'_eq_extractLsb' (by rfl),
        BitVec.extractLsb'_append_extractLsb'_eq_extractLsb' (by rfl)]
    _ = v := BitVec.extractLsb'_eq_self

@[simp] theorem le32_u32le (b0 b1 b2 b3 : Byte) : le32 (u32le [b0, b1, b2, b3]) = [b0, b1, b2, b3] := by
  rw [u32le_eq_append, le32_append]

/-- Settles O4: both inverse laws of R9. -/
theorem registerBytesInverse : Obligations.RegisterBytesInverse :=
  ⟨u32le_le32, le32_u32le⟩

end Sys2Proof.Proofs
end

section
/-!
PROOFS. What every operation of the unit leaves of the machine around it: HOST's queue, session and events as they are,
the exchange log only longer and under the length law (00_scope.md R13), tag memory and chip image in canonical form.
Below it the chip port: all that an operation there can do is exchange, or end the request (40_chip_port.md R117 to R126).
-/

namespace Sys2Proof.Proofs

open Sys2Proof Sys2Proof.Machine

/-! ## What every operation keeps -/

theorem log_stays (l : List Xchg) : ∃ e : List Xchg, l = l ++ e ∧ lengthLaw e = true :=
  ⟨[], (List.append_nil l).symm, rfl⟩

/-- From `s` to `t` HOST's side stays, the log grows by exchanges under the length law, the chip port gains no frame,
and a canonical memory or chip image stays canonical. -/
structure Extends (s t : State) : Prop where
  host : t.host = s.host
  session : t.session = s.session
  events : t.events = s.events
  log : ∃ l : List Xchg, t.log = s.log ++ l ∧ lengthLaw l = true
  port : s.chip_port = none → t.chip_port = none
  mem : Memory.wf s.tag_mem → Memory.wf t.tag_mem
  img : chipImgWf s.chip_img = true → chipImgWf t.chip_img = true

/-- The fields `Extends` speaks of. -/
def outside (s : State) :
    List HostMove × Session × List Event × List Xchg × Option Bytes × Memory × List (Nat × ChipReg) :=
  (s.host, s.session, s.events, s.log, s.chip_port, s.tag_mem, s.chip_img)

theorem Extends.of_outside_eq {s t : State} (h : outside t = outside s) : Extends s t := by
  simp only [outside, Prod.mk.injEq] at h
  obtain ⟨hhost, hsession, hevents, hlog, hport, hmem, himg⟩ := h
  exact ⟨hhost, hsession, hevents, ⟨[], by simp [hlog], rfl⟩, hport.trans, fun h => hmem ▸ h, fun h => himg ▸ h⟩

theorem Extends.refl (s : State) : Extends s s := .of_outside_eq rfl

theorem lengthLaw_append (l₁ l₂ : List Xchg) : lengthLaw (l₁ ++ l₂) = (lengthLaw l₁ && lengthLaw l₂) :=
  List.all_append

theorem Extends.trans {s t u : State} (h₁ : Extends s t) (h₂ : Extends t u) : Extends s u := by
  obtain ⟨l₁, hl₁, hlaw₁⟩ := h₁.log
  obtain ⟨l₂, hl₂, hlaw₂⟩ := h₂.log
  exact ⟨h₂.host.trans h₁.host, h₂.session.trans h₁.session, h₂.events.trans h₁.events,
    ⟨l₁ ++ l₂, by rw [hl₂, hl₁, List.append_assoc], by rw [lengthLaw_append, hlaw₁, hlaw₂]; rfl⟩,
    h₂.port ∘ h₁.port, h₂.mem ∘ h₁.mem, h₂.img ∘ h₁.img⟩

/-- Where the start of an extension differs in nothing `Extends` speaks of, it may be exchanged. -/
theorem Extends.of_left {s s' t : State} (h : Extends s' t) (hs : outside s' = outside s) : Extends s t :=
  (Extends.of_outside_eq hs).trans h

theorem extends_publish (r : Rsp) (s : State) : Extends s (publish r s) := .of_outside_eq rfl

theorem extends_transportError (s : State) : Extends s (transportError s) :=
  ⟨rfl, rfl, rfl, log_stays _, id, id, fun _ => rfl⟩

theorem extends_takeReset (s : State) : Extends s (takeReset s) := by
  refine ⟨rfl, rfl, rfl, log_stays _, fun _ => rfl, id, fun h => ?_⟩
  rw [takeReset_chip_img]
  split
  · rfl
  · exact h

/-- What a frame or an acknowledged write does to tag memory is allowed, as long as the memory stays canonical. -/
theorem extends_memory {s t : State} (m : Memory) (hm : Memory.wf s.tag_mem → Memory.wf m)
    (h : outside t = outside { s with tag_mem := m }) : Extends s t := by
  have hset : Extends s { s with tag_mem := m } :=
    ⟨rfl, rfl, rfl, log_stays _, id, hm, id⟩
  exact hset.trans (.of_outside_eq h)

theorem extends_enterTransceive (f : Bytes) (s : State) : Extends s (enterTransceive f s) :=
  extends_memory _ (knownAfterFrame_wf f) rfl

theorem extends_chunkWritten (s : State) : Extends s (chunkWritten s) :=
  extends_memory _ (memWrite_wf _ _) rfl

/-! ## At rest between two requests -/

/-- The four ways the unit stands between two requests: `rsp_valid`, the fault latch and the published class agree with
`st` (10_state.md R31, R33; 60_exceptions.md R280). -/
inductive AtRest (s : State) : Prop where
  | ready : s.st = .ready → s.fault = .none → s.rsp_valid = false → AtRest s
  | done : s.st = .done → s.fault = .none → s.rsp_valid = true → clsIsFault s.r_cls = false → AtRest s
  | transport : s.st = .fault → s.fault = .transport → s.rsp_valid = true → s.r_cls = .transportError → AtRest s
  | protocol : s.st = .fault → s.fault = .protocolState → s.rsp_valid = true → s.r_cls = .protocolStateError → AtRest s

theorem clsIsFault_eq_false {c : Cls} : clsIsFault c = false ↔ c ≠ .transportError ∧ c ≠ .protocolStateError := by
  cases c <;> decide

/-- `AtRest` is the part of the invariant that speaks of the sequencer. -/
theorem atRest_iff (s : State) : AtRest s ∧ s.chip_port = none ↔ s.settled = true ∧ s.classMatchesLatch = true := by
  constructor
  · rintro ⟨hr, hp⟩
    cases hr with
    | ready hst hf hv => simp [State.settled, State.classMatchesLatch, hst, hf, hv, hp]
    | done hst hf hv hc =>
      simp [State.settled, State.classMatchesLatch, hst, hf, hv, hp, clsIsFault_eq_false.1 hc]
    | transport hst hf hv hc => simp [State.settled, State.classMatchesLatch, hst, hf, hv, hp, hc]
    | protocol hst hf hv hc => simp [State.settled, State.classMatchesLatch, hst, hf, hv, hp, hc]
  · rintro ⟨hs, hc⟩
    unfold State.settled at hs
    unfold State.classMatchesLatch at hc
    split at hs
    case h_1 hst =>
      simp only [Bool.and_eq_true, decide_eq_true_eq, Bool.not_eq_true'] at hs
      obtain ⟨⟨hf, hv⟩, hp⟩ := hs
      exact ⟨.ready hst hf hv, hp⟩
    case h_2 hst =>
      simp only [Bool.and_eq_true, decide_eq_true_eq] at hs
      obtain ⟨⟨hf, hv⟩, hp⟩ := hs
      simp only [hf, hv, Bool.not_true, Bool.false_or, Bool.and_eq_true, decide_eq_true_eq] at hc
      exact ⟨.done hst hf hv (clsIsFault_eq_false.2 hc), hp⟩
    case h_3 hst =>
      simp only [Bool.and_eq_true, decide_eq_true_eq] at hs
      obtain ⟨⟨hf, hv⟩, hp⟩ := hs
      cases hl : s.fault with
      | none => exact absurd hl hf
      | transport => exact ⟨.transport hst hl hv (by simpa [hl, hv] using hc), hp⟩
      | protocolState => exact ⟨.protocol hst hl hv (by simpa [hl, hv] using hc), hp⟩
    case h_4 => simp at hs

/-- `AtRest` reads four registers. -/
theorem AtRest.congr {s t : State} (h : AtRest s) (hst : t.st = s.st) (hf : t.fault = s.fault)
    (hv : t.rsp_valid = s.rsp_valid) (hc : t.r_cls = s.r_cls) : AtRest t := by
  cases h with
  | ready h₁ h₂ h₃ => exact .ready (hst.trans h₁) (hf.trans h₂) (hv.trans h₃)
  | done h₁ h₂ h₃ h₄ => exact .done (hst.trans h₁) (hf.trans h₂) (hv.trans h₃) (hc ▸ h₄)
  | transport h₁ h₂ h₃ h₄ => exact .transport (hst.trans h₁) (hf.trans h₂) (hv.trans h₃) (hc.trans h₄)
  | protocol h₁ h₂ h₃ h₄ => exact .protocol (hst.trans h₁) (hf.trans h₂) (hv.trans h₃) (hc.trans h₄)

theorem AtRest.not_running {s : State} (h : AtRest s) : s.running = false := by
  cases h <;> simp_all [State.running, State.busy]

theorem atRest_takeReset (s : State) : AtRest (takeReset s) := .ready rfl rfl rfl

theorem atRest_transportError (s : State) : AtRest (transportError s) := .transport rfl rfl rfl rfl

theorem atRest_protocolStateError {s : State} (h : s.fault = .protocolState) : AtRest (protocolStateError s) :=
  .protocol (by simp [protocolStateError, h]) h rfl rfl

theorem atRest_publish {r : Rsp} {s : State} (hf : s.fault = .none) (hc : clsIsFault r.cls = false) :
    AtRest (publish r s) :=
  .done (by simp [hf]) hf rfl hc

/-- The invariant in the terms of this file. -/
theorem inv_iff (s : State) : s.Inv ↔ (AtRest s ∧ s.chip_port = none) ∧
    Memory.wf s.tag_mem ∧ chipImgWf s.chip_img = true ∧ lengthLaw s.log = true := by
  rw [atRest_iff, and_assoc, State.Inv]

theorem atRest_of_inv {s : State} (h : s.Inv) : AtRest s := by
  obtain ⟨⟨hrest, -⟩, -⟩ := (inv_iff s).1 h
  exact hrest

theorem chip_port_of_inv {s : State} (h : s.Inv) : s.chip_port = none := by
  obtain ⟨⟨-, hport⟩, -⟩ := (inv_iff s).1 h
  exact hport

/-- The invariant goes over to every state that extends one with it and is at rest. -/
theorem inv_of_extends {s t : State} (hs : s.Inv) (h : Extends s t) (hr : AtRest t) : t.Inv := by
  obtain ⟨⟨-, hport⟩, hmem, himg, hlog⟩ := (inv_iff s).1 hs
  obtain ⟨l, hl, hlaw⟩ := h.log
  exact (inv_iff t).2 ⟨⟨hr, h.port hport⟩, h.mem hmem, h.img himg, by rw [hl, lengthLaw_append, hlog, hlaw]; rfl⟩

/-! ## The chip port -/

/-- From `s` to `t` there were exchanges that returned, and nothing else: the registers of the unit, HOST's side and the
tag are as they were. -/
structure Exchanged (s t : State) : Prop where
  rest : t = { s with
    rst := t.rst, chip_in := t.chip_in, nx := t.nx, log := t.log, ret := t.ret, chip_img := t.chip_img }
  log : ∃ l : List Xchg, t.log = s.log ++ l ∧ lengthLaw l = true
  img : chipImgWf s.chip_img = true → chipImgWf t.chip_img = true

theorem Exchanged.extends {s t : State} (h : Exchanged s t) : Extends s t :=
  ⟨by rw [h.rest], by rw [h.rest], by rw [h.rest], h.log, by rw [h.rest]; exact id, by rw [h.rest]; exact id, h.img⟩

theorem Exchanged.st {s t : State} (h : Exchanged s t) : t.st = s.st := by rw [h.rest]
theorem Exchanged.fault {s t : State} (h : Exchanged s t) : t.fault = s.fault := by rw [h.rest]
theorem Exchanged.rq {s t : State} (h : Exchanged s t) : t.rq = s.rq := by rw [h.rest]
theorem Exchanged.smp {s t : State} (h : Exchanged s t) : t.smp = s.smp := by rw [h.rest]
theorem Exchanged.m_nblk {s t : State} (h : Exchanged s t) : t.m_nblk = s.m_nblk := by rw [h.rest]
theorem Exchanged.m_idx {s t : State} (h : Exchanged s t) : t.m_idx = s.m_idx := by rw [h.rest]
theorem Exchanged.rsp_valid {s t : State} (h : Exchanged s t) : t.rsp_valid = s.rsp_valid := by rw [h.rest]
theorem Exchanged.r_cls {s t : State} (h : Exchanged s t) : t.r_cls = s.r_cls := by rw [h.rest]

theorem Exchanged.refl (s : State) : Exchanged s s := ⟨rfl, log_stays _, id⟩

theorem Exchanged.trans {s t u : State} (h₁ : Exchanged s t) (h₂ : Exchanged t u) : Exchanged s u where
  rest := h₂.rest.trans (congrArg (fun t : State => { t with
    rst := u.rst, chip_in := u.chip_in, nx := u.nx, log := u.log, ret := u.ret, chip_img := u.chip_img }) h₁.rest)
  log := (h₁.extends.trans h₂.extends).log
  img := h₂.img ∘ h₁.img

theorem Exchanged.atRest {s t : State} (h : Exchanged s t) (hs : AtRest s) : AtRest t :=
  hs.congr h.st h.fault h.rsp_valid h.r_cls

/-- All that an operation of the chip port can do from `s`: exchanges that return, or the request ends at rest. -/
def RunsFrom (s : State) : Port → Prop
  | .done t => Exchanged s t
  | .ended t => Extends s t ∧ AtRest t

theorem RunsFrom.bind {s : State} {p : Port} {f : State → Port} (hp : RunsFrom s p)
    (hf : ∀ t : State, RunsFrom t (f t)) : RunsFrom s (p.bind f) := by
  cases p with
  | ended t => exact hp
  | done t =>
    have ht := hf t
    rw [Port.bind]
    cases hft : f t with
    | done u =>
      rw [hft] at ht
      exact Exchanged.trans hp ht
    | ended u =>
      rw [hft] at ht
      obtain ⟨hext, hrest⟩ := ht
      exact ⟨(Exchanged.extends hp).trans hext, hrest⟩

theorem runsFrom_sampleRst (s : State) : RunsFrom s (sampleRst s) := by
  rcases sampleRst_cases s with ⟨-, h⟩ | ⟨n, rest, -, h⟩ | ⟨rest, -, h⟩ <;> rw [h]
  · exact .refl s
  · exact ⟨rfl, log_stays _, id⟩
  · exact ⟨(extends_takeReset _).of_left rfl, atRest_takeReset _⟩

theorem extends_logXchg {tx : Bytes} {rx : Option Bytes} (s : State) (h : lengthLaw [⟨tx, rx⟩] = true) :
    Extends s (logXchg tx rx s) :=
  ⟨rfl, rfl, rfl, ⟨[⟨tx, rx⟩], rfl, h⟩, id, id, id⟩

theorem runsFrom_exchange {tx : Bytes} (htx : tx ≠ []) (s : State) : RunsFrom s (exchange tx s) := by
  have hlen : 1 ≤ tx.length := List.length_pos_iff.2 htx
  rcases exchange_cases tx s with ⟨r, rx, -, -, hrx, h⟩ | ⟨r, -, -, -, h⟩ | ⟨rest, -, h⟩ <;> rw [h]
  · exact ⟨rfl, ⟨[⟨tx, some rx⟩], rfl, by simp [lengthLaw, hlen, drawn_length hrx]⟩, id⟩
  · have hlog := extends_logXchg (tx := tx) (rx := none) { s with rst := r } (by simp [lengthLaw, hlen])
    exact ⟨(hlog.trans (extends_transportError _)).of_left rfl, atRest_transportError _⟩
  · exact ⟨(extends_takeReset _).of_left rfl, atRest_takeReset _⟩

theorem runsFrom_command {i : Instr} {eff : List (Nat × ChipReg) → List (Nat × ChipReg)} (hi : (encode i).2 ≠ [])
    (heff : ∀ img : List (Nat × ChipReg), chipImgWf img = true → chipImgWf (eff img) = true) (s : State) :
    RunsFrom s (command i eff s) :=
  (runsFrom_exchange hi s).bind fun t => ⟨rfl, log_stays _, heff t.chip_img⟩

theorem runsFrom_query {i : Instr} (hi : (encode i).2 ≠ []) (n : Nat) (s : State) : RunsFrom s (query i n s) := by
  refine (runsFrom_exchange hi s).bind fun t => ?_
  split
  · exact ⟨rfl, log_stays _, id⟩
  · next hn => exact runsFrom_exchange (by simpa [rep] using hn) t

theorem runsFrom_regWrite (a : Byte) (v : Word) (s : State) : RunsFrom s (regWrite a v s) :=
  runsFrom_command (by simp [encode]) (fun _ => chipRegWrite_wf a v) s

theorem runsFrom_regOr (a : Byte) (m : Word) (s : State) : RunsFrom s (regOr a m s) :=
  runsFrom_command (by simp [encode]) (fun _ => chipRegOr_wf a m) s

theorem runsFrom_regAnd (a : Byte) (m : Word) (s : State) : RunsFrom s (regAnd a m s) :=
  runsFrom_command (by simp [encode]) (fun _ => chipRegAnd_wf a m) s

theorem runsFrom_regRead (a : Byte) (s : State) : RunsFrom s (regRead a s) :=
  runsFrom_query (by simp [encode]) 4 s

theorem runsFrom_eepromRead (a n : Byte) (s : State) : RunsFrom s (eepromRead a n s) :=
  runsFrom_query (by simp [encode]) n.toNat s

theorem runsFrom_sendData (f : Bytes) (s : State) : RunsFrom s (sendData f s) :=
  runsFrom_exchange (List.cons_ne_nil _ _) s

theorem runsFrom_readData (n : Nat) (s : State) : RunsFrom s (readData n s) :=
  runsFrom_query (by simp [encode]) n s

theorem runsFrom_clearIrq (s : State) : RunsFrom s (clearIrq s) := runsFrom_regWrite _ _ s

theorem runsFrom_setMode (m : Word) (s : State) : RunsFrom s (setMode m s) := by
  refine (runsFrom_regAnd _ _ s).bind fun t => ?_
  split
  · exact .refl t
  · exact runsFrom_regOr _ _ t

end Sys2Proof.Proofs
end

section
/-!
PROOFS. The sequencer always comes to rest: a request in progress has a number of steps left, below the fuel of a request
(log 8), and every step of the unit takes one of them or ends the request (10_state.md R22, 41_transceive.md R148, R152,
44_tag_memory.md R259).
-/

namespace Sys2Proof.Proofs

open Sys2Proof Sys2Proof.Machine

/-! ## The steps a request has left -/

/-- The steps from a state of R22 to the end of the transceive it belongs to, at most 114; `smp` samples of a phase are
spent. -/
def transceiveSteps (s : State) : Nat :=
  match s.st with
  | .ready | .done | .fault | .validate => 0
  | .codec | .decode | .mRead | .mWchunk => 1
  | .xRestore => 2
  | .xRxdata => 3
  | .xRxstat => 4
  | .xBSample => 4 + 2 * (Config.samplesB - s.smp)
  | .xBWait => 5 + 2 * (Config.samplesB - s.smp)
  | .xASample => 106 + 2 * (Config.samplesA - s.smp)
  | .xAWait => 107 + 2 * (Config.samplesA - s.smp)
  | .xSend => 111
  | .xChk => 112
  | .xMode => 113
  | .xClr => 114

/-- The transceives a MEM_WRITE makes after the present one. -/
def chunksLeft (s : State) : Nat := if returnState s.rq = .mWchunk then s.m_nblk - (s.m_idx + 1) else 0

/-- A bound on the steps of the unit before the request in progress ends. -/
def stepsLeft (s : State) : Nat :=
  if s.st = .validate then Config.maxSteps else transceiveSteps s + 114 * chunksLeft s

/-- The deadlines are not passed, and M_WCHUNK is a MEM_WRITE's. -/
def OnCourse (s : State) : Prop :=
  match s.st with
  | .xASample | .xAWait => s.smp < Config.samplesA
  | .xBSample | .xBWait => s.smp < Config.samplesB
  | .mWchunk => returnState s.rq = .mWchunk
  | _ => True

/-- A request is being carried out. -/
structure InProgress (s : State) : Prop where
  running : s.running = true
  fault : s.fault = .none
  course : OnCourse s

theorem running_iff {s : State} : s.running = true ↔ s.st ≠ .ready ∧ s.st ≠ .done ∧ s.st ≠ .fault := by
  simp [State.running, State.busy, and_assoc]

theorem stepsLeft_validate {s : State} (h : s.st = .validate) : stepsLeft s = Config.maxSteps := if_pos h

theorem stepsLeft_of_pos {s : State} (h : 0 < transceiveSteps s) :
    stepsLeft s = transceiveSteps s + 114 * chunksLeft s := by
  refine if_neg fun hst => ?_
  simp [transceiveSteps, hst] at h

theorem running_of_transceiveSteps_pos {s : State} (h : 0 < transceiveSteps s) : s.running = true := by
  refine running_iff.2 ⟨fun hst => ?_, fun hst => ?_, fun hst => ?_⟩ <;> simp [transceiveSteps, hst] at h

theorem stepsLeft_pos {s : State} (h : s.running = true) : 0 < stepsLeft s := by
  obtain ⟨hready, hdone, hfault⟩ := running_iff.1 h
  unfold stepsLeft
  split
  · decide
  · next hv =>
    have : 0 < transceiveSteps s := by
      unfold transceiveSteps
      split <;> simp_all
    omega

/-! ## Progress -/

/-- One step's work from `s` to `t`: what every operation keeps, and the request either comes to rest or is nearer to
its end. -/
structure Progress (s t : State) : Prop where
  kept : Extends s t
  advances : InProgress s → AtRest t ∨ InProgress t ∧ stepsLeft t < stepsLeft s

theorem Progress.ends {s t : State} (hk : Extends s t) (hr : AtRest t) : Progress s t := ⟨hk, fun _ => .inl hr⟩

/-- A step inside a transceive: only registers move, and the transceive is nearer to its end. -/
theorem Progress.goesOn {s t : State} (ho : outside t = outside s) (hf : t.fault = s.fault)
    (hc : chunksLeft t = chunksLeft s)
    (hp : OnCourse s → OnCourse t ∧ 0 < transceiveSteps t ∧ transceiveSteps t < transceiveSteps s) : Progress s t := by
  refine ⟨.of_outside_eq ho, fun h => .inr ?_⟩
  obtain ⟨hcourse, hpos, hlt⟩ := hp h.course
  refine ⟨⟨running_of_transceiveSteps_pos hpos, hf.trans h.fault, hcourse⟩, ?_⟩
  rw [stepsLeft_of_pos hpos, stepsLeft_of_pos (hpos.trans hlt), hc]
  omega

/-- Exchanges before a step's work change nothing of its measure. -/
theorem Progress.after_exchanges {s t u : State} (h : Exchanged s t) (hp : Progress t u) : Progress s u := by
  have hchunks : chunksLeft t = chunksLeft s := by simp only [chunksLeft, h.rq, h.m_nblk, h.m_idx]
  have hleft : stepsLeft t = stepsLeft s := by
    simp only [stepsLeft, transceiveSteps, h.st, h.smp, hchunks]
  refine ⟨h.extends.trans hp.kept, fun hs => hleft ▸ hp.advances ⟨?_, h.fault.trans hs.fault, ?_⟩⟩
  · simpa only [running_iff, h.st] using hs.running
  · simpa only [OnCourse, h.st, h.smp, h.rq] using hs.course

theorem RunsFrom.progress {s : State} {p : Port} {f : State → State} (hp : RunsFrom s p)
    (hf : ∀ t : State, Exchanged s t → Progress t (f t)) : Progress s (p.andThen f) := by
  cases p with
  | done t => exact (hf t hp).after_exchanges hp
  | ended t =>
    obtain ⟨hext, hrest⟩ := hp
    exact .ends hext hrest

theorem progress_publish {r : Rsp} (hc : clsIsFault r.cls = false) (s : State) : Progress s (publish r s) :=
  ⟨extends_publish r s, fun h => .inl (atRest_publish h.fault hc)⟩

theorem progress_badRequest (s : State) : Progress s (badRequest s) := progress_publish rfl s

/-! ## The transceive -/

theorem progress_xClr {s : State} (h : s.st = .xClr) : Progress s (xClr s) :=
  (runsFrom_clearIrq s).progress fun t ht =>
    .goesOn rfl rfl rfl fun _ => by simp [OnCourse, transceiveSteps, ht.st, h]

theorem progress_xMode {s : State} (h : s.st = .xMode) : Progress s (xMode s) :=
  (runsFrom_setMode _ s).progress fun t ht =>
    .goesOn rfl rfl rfl fun _ => by simp [OnCourse, transceiveSteps, ht.st, h]

/-- The cleanup of a ProtocolStateError ends the request, whether it succeeds or not (41_transceive.md R144). -/
theorem progress_chkTransmit {s : State} (h : s.st = .xChk) (v : BitVec 3) :
    Progress s (chkTransmit { s with ts := v }) := by
  unfold chkTransmit
  split
  · exact .goesOn rfl rfl rfl fun _ => by simp [OnCourse, transceiveSteps, h]
  · have hp := runsFrom_setMode Config.modeIdle { s with ts := v, fault := .protocolState }
    change Progress s ((setMode Config.modeIdle { s with ts := v, fault := .protocolState }).andThen protocolStateError)
    cases hset : setMode Config.modeIdle { s with ts := v, fault := .protocolState } with
    | done t =>
      rw [hset] at hp
      exact .ends ((Exchanged.extends hp).trans (extends_publish _ t) |>.of_left rfl)
        (atRest_protocolStateError (Exchanged.fault hp))
    | ended t =>
      rw [hset] at hp
      obtain ⟨hext, hrest⟩ := hp
      exact .ends (hext.of_left rfl) hrest

theorem progress_xChk {s : State} (h : s.st = .xChk) : Progress s (xChk s) :=
  (runsFrom_regRead _ s).progress fun _ ht => progress_chkTransmit (ht.st.trans h) _

theorem progress_xSend {s : State} (h : s.st = .xSend) : Progress s (xSend s) :=
  (runsFrom_sendData _ s).progress fun t ht =>
    .goesOn rfl rfl rfl fun _ => by
      simp [OnCourse, transceiveSteps, ht.st, h, Config.samplesA, Config.tA, Config.pollPeriod]

theorem progress_aSampled {s : State} (h : s.st = .xASample) (v : Word) :
    Progress s (aSampled { s with irq := v, smp := s.smp + 1 }) := by
  unfold aSampled
  split
  · refine .goesOn rfl rfl rfl fun hc => ?_
    simp only [OnCourse, transceiveSteps, h] at hc ⊢
    simp [Config.samplesB, Config.tB, Config.pollPeriod]
    omega
  · split
    · exact .goesOn rfl rfl rfl fun _ => by simp [noAnswerResult, OnCourse, transceiveSteps, h]; omega
    · next hlast =>
      refine .goesOn rfl rfl rfl fun hc => ?_
      simp only [OnCourse, transceiveSteps, h] at hc hlast ⊢
      omega

theorem progress_xASample {s : State} (h : s.st = .xASample) : Progress s (xASample s) :=
  (runsFrom_regRead _ s).progress fun _ ht => progress_aSampled (ht.st.trans h) _

theorem progress_xAWait {s : State} (h : s.st = .xAWait) : Progress s (xAWait s) :=
  .goesOn rfl rfl rfl fun hc => by
    simp only [OnCourse, h] at hc
    simp [xAWait, wait, OnCourse, transceiveSteps, h, hc]

theorem progress_bSampled {s : State} (h : s.st = .xBSample) (v : Word) :
    Progress s (bSampled { s with irq := v, smp := s.smp + 1 }) := by
  unfold bSampled
  split
  · refine .goesOn rfl rfl rfl fun hc => ?_
    simp only [OnCourse, h] at hc
    simp [OnCourse, transceiveSteps, h, hc]
  · split
    · exact .goesOn rfl rfl rfl fun _ => by simp [noAnswerResult, OnCourse, transceiveSteps, h]; omega
    · next hlast =>
      refine .goesOn rfl rfl rfl fun hc => ?_
      simp only [OnCourse, transceiveSteps, h] at hc hlast ⊢
      omega

theorem progress_xBSample {s : State} (h : s.st = .xBSample) : Progress s (xBSample s) :=
  (runsFrom_regRead _ s).progress fun _ ht => progress_bSampled (ht.st.trans h) _

theorem progress_xBWait {s : State} (h : s.st = .xBWait) : Progress s (xBWait s) :=
  .goesOn rfl rfl rfl fun hc => by
    simp only [OnCourse, h] at hc
    simp [xBWait, wait, OnCourse, transceiveSteps, h, hc]

theorem progress_xRxstat {s : State} (h : s.st = .xRxstat) : Progress s (xRxstat s) := by
  refine (runsFrom_regRead _ s).progress fun t ht => ?_
  simp only
  split
  · exact .goesOn rfl rfl rfl fun _ => by simp [noAnswerResult, OnCourse, transceiveSteps, ht.st, h]
  · exact .goesOn rfl rfl rfl fun _ => by simp [OnCourse, transceiveSteps, ht.st, h]

theorem progress_xRxdata {s : State} (h : s.st = .xRxdata) : Progress s (xRxdata s) :=
  (runsFrom_readData _ s).progress fun t ht =>
    .goesOn rfl rfl rfl fun _ => by simp [OnCourse, transceiveSteps, ht.st, h]

theorem returnState_cases (q : Request) :
    returnState q = .mRead ∨ returnState q = .mWchunk ∨ returnState q = .decode := by
  unfold returnState
  split <;> simp

theorem progress_xRestore {s : State} (h : s.st = .xRestore) : Progress s (xRestore s) := by
  refine (runsFrom_setMode _ s).progress fun t ht => .goesOn rfl rfl rfl fun _ => ?_
  rcases returnState_cases t.rq with hq | hq | hq <;> simp [OnCourse, transceiveSteps, ht.st, h, hq]

/-! ## The ends of a request -/

theorem clsIsFault_arbitrate (fl : Byte) (pl : Bytes) : clsIsFault (arbitrate fl pl).cls = false := by
  unfold arbitrate
  split
  · rfl
  · split <;> rfl

theorem clsIsFault_parseInventory (fl : Byte) (pl : Bytes) : clsIsFault (parseInventory fl pl).cls = false := by
  unfold parseInventory
  have := clsIsFault_arbitrate fl pl
  simp only
  split_ifs
  · rfl
  · exact this
  · exact this

theorem clsIsFault_parseSystemInfo (fl : Byte) (pl : Bytes) : clsIsFault (parseSystemInfo fl pl).cls = false := by
  unfold parseSystemInfo
  have := clsIsFault_arbitrate fl pl
  simp only
  split
  · split
    · exact this
    · rfl
  · exact this

theorem clsIsFault_parseMultiWrite (count : Nat) (fl : Byte) (pl : Bytes) :
    clsIsFault (parseMultiWrite count fl pl).cls = false := by
  unfold parseMultiWrite
  simp only
  split
  · rfl
  · exact clsIsFault_arbitrate fl pl

/-- No reply of a tag is published as a fault class (60_exceptions.md R280). -/
theorem clsIsFault_decodeReply (i : Instr) (fl : Byte) (pl : Bytes) : clsIsFault (decodeReply i fl pl).cls = false := by
  unfold decodeReply
  split
  · unfold isoDecode
    split
    · exact clsIsFault_parseInventory fl pl
    · exact clsIsFault_parseSystemInfo fl pl
    · exact clsIsFault_parseMultiWrite _ fl pl
    · exact clsIsFault_arbitrate fl pl
  · exact clsIsFault_arbitrate fl pl

theorem clsIsFault_readReply (skip length : Nat) (fl : Byte) (pl : Bytes) :
    clsIsFault (readReply skip length fl pl).cls = false := by
  unfold readReply
  have := clsIsFault_arbitrate fl pl
  simp only
  split_ifs
  · rfl
  · exact this
  · exact this

theorem clsIsFault_chunkFailure {b fl : Byte} {pl : Bytes} {r : Rsp} (h : chunkFailure b fl pl = some r) :
    clsIsFault r.cls = false := by
  unfold chunkFailure at h
  split at h
  · cases h; rfl
  · split at h
    · cases h; rfl
    · split at h <;> cases h
      rfl

theorem progress_decodeStep (s : State) : Progress s (decodeStep s) := by
  unfold decodeStep
  split
  · exact progress_publish (clsIsFault_decodeReply ..) s
  · exact progress_badRequest s

theorem progress_codec (s : State) : Progress s (codec s) := by
  unfold codec
  split
  · exact ((runsFrom_clearIrq s).bind (runsFrom_setMode _)).progress fun t _ => progress_publish rfl t
  · exact (runsFrom_regWrite _ _ s).progress fun t _ => progress_publish rfl t
  · exact (runsFrom_regOr _ _ s).progress fun t _ => progress_publish rfl t
  · exact (runsFrom_regAnd _ _ s).progress fun t _ => progress_publish rfl t
  · exact (runsFrom_regRead _ s).progress fun t _ => progress_publish rfl t
  · exact (runsFrom_eepromRead _ _ s).progress fun t _ => progress_publish rfl t
  · exact progress_badRequest s

/-! ## The mapper and the start of a request -/

/-- A transceive is started with at most 255 more to come after it (44_tag_memory.md R251, R253). -/
theorem progress_enter_of_validate {s w : State} (hs : s.st = .validate) (f : Bytes) (ho : outside w = outside s)
    (hf : w.fault = s.fault) (hc : chunksLeft w ≤ 255) : Progress s (enterTransceive f w) := by
  refine ⟨(extends_enterTransceive f w).of_left ho, fun h => .inr ⟨⟨rfl, hf.trans h.fault, trivial⟩, ?_⟩⟩
  have hleft : stepsLeft (enterTransceive f w) = 114 + 114 * chunksLeft w := rfl
  have hmax : Config.maxSteps = 29192 := rfl
  rw [hleft, stepsLeft_validate hs, hmax]
  omega

theorem chunksLeft_of_not_memWrite {s : State} (h : returnState s.rq ≠ .mWchunk) : chunksLeft s ≤ 255 := by
  simp [chunksLeft, h]

theorem progress_startRf {s : State} (hs : s.st = .validate) (hq : returnState s.rq ≠ .mWchunk) (ok : Bool)
    (f : Bytes) : Progress s (startRf ok f s) := by
  unfold startRf
  split
  · exact progress_enter_of_validate hs f rfl rfl (chunksLeft_of_not_memWrite hq)
  · exact progress_badRequest s

theorem progress_startCodec {s : State} (hs : s.st = .validate) (hq : returnState s.rq ≠ .mWchunk) (ok : Bool) :
    Progress s (startCodec ok s) := by
  unfold startCodec
  split
  · refine ⟨.of_outside_eq rfl, fun h => .inr ⟨⟨rfl, h.fault, trivial⟩, ?_⟩⟩
    have hleft : stepsLeft { s with st := .codec } = 1 + 114 * chunksLeft s := rfl
    have hmax : Config.maxSteps = 29192 := rfl
    have hchunks := chunksLeft_of_not_memWrite hq
    rw [hleft, stepsLeft_validate hs, hmax]
    omega
  · exact progress_badRequest s

/-- A range inside a tag's memory covers at most its blocks (44_tag_memory.md R253). -/
theorem mapPlan_nblk_le {tag : TagRec} {offset len : Nat} (hg : geometryOk tag = true)
    (hr : rangeOk tag offset len = true) : (mapPlan tag.bs offset len).nblk ≤ 256 := by
  simp only [geometryOk, Bool.and_eq_true, decide_eq_true_iff] at hg
  obtain ⟨⟨hmin, -⟩, -, hnb⟩ := hg
  have hbs : 0 < tag.bs := hmin
  have hrange : offset + len ≤ tag.bs * tag.nb := by simpa [rangeOk] using hr
  have hskip : offset % tag.bs ≤ offset := Nat.mod_le _ _
  rw [mapPlan_nblk, blocksOf]
  refine le_trans (Nat.lt_succ_iff.1 ((Nat.div_lt_iff_lt_mul hbs).2 ?_)) hnb
  rw [Nat.succ_mul, Nat.mul_comm]
  omega

theorem progress_startMemRead {s : State} (hs : s.st = .validate) (hq : returnState s.rq ≠ .mWchunk) (tag : TagRec)
    (offset length : Half) : Progress s (startMemRead tag offset length s) := by
  unfold startMemRead
  split_ifs
  · exact progress_publish rfl s
  · exact progress_publish rfl s
  · exact progress_publish rfl s
  · exact progress_enter_of_validate hs _ rfl rfl (chunksLeft_of_not_memWrite hq)

theorem progress_startMemWrite {s : State} (hs : s.st = .validate) (tag : TagRec) (offset : Half) (data : Bytes) :
    Progress s (startMemWrite tag offset data s) := by
  unfold startMemWrite
  split_ifs with hg hr
  · exact progress_publish rfl s
  · exact progress_publish rfl s
  · exact progress_publish rfl s
  · have hn := mapPlan_nblk_le (by simpa using hg) (by simpa using hr)
    refine progress_enter_of_validate hs _ rfl rfl ?_
    unfold chunksLeft
    split
    · exact Nat.sub_le_of_le_add hn
    · omega

theorem returnState_of_iso {i : Instr} {r : IsoReq} (h : isoReqOf i = some r) : returnState (.op i) ≠ .mWchunk := by
  cases i
  case memWrite => cases h
  all_goals exact nofun

theorem progress_validate {s : State} (hs : s.st = .validate) : Progress s (validate s) := by
  unfold validate
  split
  · exact progress_badRequest s
  · next i hi =>
    split
    · next r hr => exact progress_startRf hs (hi ▸ returnState_of_iso hr) _ _
    · split
      any_goals exact progress_startRf hs (hi ▸ nofun) _ _
      any_goals exact progress_startCodec hs (hi ▸ nofun) _
      · exact progress_startMemRead hs (hi ▸ nofun) _ _ _
      · split
        · exact progress_startMemWrite hs _ _ _
        · exact progress_badRequest s
      · exact progress_badRequest s

/-- An acknowledged chunk is one chunk fewer to come (44_tag_memory.md R259). -/
theorem progress_mWchunk {s : State} (hs : s.st = .mWchunk) : Progress s (mWchunk s) := by
  unfold mWchunk
  split
  · next r hr => exact progress_publish (clsIsFault_chunkFailure hr) s
  · unfold nextChunk
    split
    · next hlt =>
      refine ⟨(extends_chunkWritten s).trans (extends_enterTransceive _ _),
        fun h => .inr ⟨⟨rfl, h.fault, trivial⟩, ?_⟩⟩
      have hq : returnState s.rq = .mWchunk := by simpa only [OnCourse, hs] using h.course
      have hafter : stepsLeft (startChunk (chunkWritten s)) = 114 + 114 * chunksLeft (chunkWritten s) := rfl
      have hbefore : stepsLeft s = 1 + 114 * chunksLeft s := by simp [stepsLeft, transceiveSteps, hs]
      have hidx : s.m_idx + 1 < s.m_nblk := hlt
      have hone : chunksLeft s = chunksLeft (chunkWritten s) + 1 := by
        simp only [chunksLeft, chunkWritten, hq, if_true]
        omega
      omega
    · exact ⟨(extends_chunkWritten s).trans (extends_publish _ _),
        fun h => .inl (atRest_publish h.fault rfl)⟩

theorem progress_mRead (s : State) : Progress s (mRead s) := by
  unfold mRead
  split
  · exact progress_publish (clsIsFault_readReply ..) s
  · exact progress_badRequest s

/-! ## A step of the unit, and a run -/

/-- Every state of R22 that takes a step makes progress. -/
theorem progress_seqStep {s : State} (hs : s.running = true) : Progress s (seqStep s) := by
  obtain ⟨hready, hdone, hfault⟩ := running_iff.1 hs
  unfold seqStep
  split
  case h_1 h => exact absurd h hready
  case h_2 h => exact progress_validate h
  case h_3 => exact progress_codec s
  case h_4 h => exact progress_xClr h
  case h_5 h => exact progress_xMode h
  case h_6 h => exact progress_xChk h
  case h_7 h => exact progress_xSend h
  case h_8 h => exact progress_xASample h
  case h_9 h => exact progress_xAWait h
  case h_10 h => exact progress_xBSample h
  case h_11 h => exact progress_xBWait h
  case h_12 h => exact progress_xRxstat h
  case h_13 h => exact progress_xRxdata h
  case h_14 h => exact progress_xRestore h
  case h_15 => exact progress_decodeStep s
  case h_16 => exact progress_mRead s
  case h_17 h => exact progress_mWchunk h
  case h_18 h => exact absurd h hdone
  case h_19 h => exact absurd h hfault

theorem progress_unitStep {s : State} (hs : s.running = true) : Progress s (unitStep s) :=
  (runsFrom_sampleRst s).progress fun t ht => progress_seqStep (by simpa only [running_iff, ht.st] using hs)

/-- A run is an extension, however far it gets. -/
theorem extends_runSeq (n : Nat) (s : State) : Extends s (runSeq n s) :=
  runSeq_keeps (P := Extends s) (fun _ ht hr => ht.trans (progress_unitStep hr).kept) n s (.refl s)

/-- With fuel for the steps left, a run comes to rest. -/
theorem atRest_runSeq : ∀ (n : Nat) {s : State}, InProgress s → stepsLeft s ≤ n → AtRest (runSeq n s)
  | 0, _, hs, hn => absurd (stepsLeft_pos hs.running) (Nat.not_lt.2 hn)
  | n + 1, s, hs, hn => by
    rw [runSeq_succ n hs.running]
    rcases (progress_unitStep hs.running).advances hs with hr | ⟨ht, hlt⟩
    · rwa [runSeq_idle hr.not_running]
    · exact atRest_runSeq n ht (by omega)

theorem extends_request (q : Request) (s : State) : Extends s (request q s) := by
  unfold request
  split
  · exact (extends_runSeq _ (accept q s)).of_left rfl
  · exact .refl s

theorem atRest_request {s : State} (q : Request) (hs : AtRest s) : AtRest (request q s) := by
  unfold request
  split
  · next hr =>
    obtain ⟨hfault, -⟩ := ready_fault hr
    exact atRest_runSeq _ ⟨rfl, hfault, trivial⟩ le_rfl
  · exact hs

end Sys2Proof.Proofs
end

section
/-!
PROOFS. The state's statements (10_state.md R22 to R48): reset, the dispatch of a step, the request that is held, what no
instruction changes, and the invariant of every step.
-/

namespace Sys2Proof.Proofs

open Sys2Proof Sys2Proof.Machine

/-! ## Reset -/

/-- Settles O6: each value is read off `State.reset`. -/
theorem resetState : Obligations.ResetState :=
  ⟨rfl, rfl, rfl, rfl, rfl, rfl⟩

/-- Settles O7: READY with no fault, and nothing recorded. -/
theorem resetHoldsInvariant : Obligations.ResetHoldsInvariant :=
  ⟨rfl, rfl, reset_memory_wf, rfl, rfl⟩

/-! ## Dispatch -/

/-- The delays to come after a sampling point that takes no reset (log 9). -/
def oneNearer (delays : List Nat) : List Nat := (delays.head?.map fun n => (n - 1) :: delays.tail).getD []

theorem sampleRst_of_not_due {s : State} (h : s.rst.head? ≠ some 0) :
    sampleRst s = .done { s with rst := oneNearer s.rst } := by
  rcases sampleRst_cases s with ⟨hrst, hd⟩ | ⟨n, rest, hrst, hd⟩ | ⟨rest, hrst, -⟩
  · have hstays : oneNearer s.rst = s.rst := by rw [hrst]; rfl
    rw [hd, hstays]
  · rw [hd, hrst]; rfl
  · exact absurd (by rw [hrst]; rfl) h

/-- A step at which no reset is due is the unit's. -/
theorem step_of_not_due {s : State} (h : s.rst.head? ≠ some 0) :
    step s = runUnit { s with rst := oneNearer s.rst } := by
  rw [step, if_pos (by decide), sampleRst_of_not_due h]

theorem runUnit_host {s : State} (hp : s.chip_port = none) (hr : s.req_ready = true) : runUnit s = runHost s := by
  obtain ⟨-, hst⟩ := ready_fault hr
  have hst : s.st ≠ .fault := by rcases hst with h | h <;> simp [h]
  simp [runUnit, hst, hp, hr]

theorem runHost_record {s : State} {format : Format} {bytes : Bytes} {rest : List HostMove} {i : Instr}
    (hh : s.host = .record format bytes :: rest) (hd : decodeRecord format bytes = .ok i) :
    runHost s = exec i { s with host := rest } := by
  simp only [runHost, hh, hd]

theorem runUnit_chipPort {s : State} {frame : Bytes} {i : Instr} (hst : s.st ≠ .fault)
    (hp : s.chip_port = some frame) (hd : decode .chipCmd frame = .ok i) :
    runUnit s = exec i { s with chip_port := none } := by
  simp only [runUnit, if_neg hst, hp, runChipPort, hd]

/-- Settles O9: a step with no reset due samples `rst` and dispatches. -/
theorem stepRunsDecoded : Obligations.StepRunsDecoded := by
  intro s i hrst _
  refine ⟨fun format bytes rest hh hp hr hd => ?_, fun bytes hst hp hd => ?_⟩
  · calc step s
      _ = runUnit { s with rst := oneNearer s.rst } := step_of_not_due hrst
      _ = runHost { s with rst := oneNearer s.rst } := runUnit_host hp hr
      _ = exec i { s with host := rest, rst := oneNearer s.rst } :=
        runHost_record (s := { s with rst := oneNearer s.rst }) hh hd
  · calc step s
      _ = runUnit { s with rst := oneNearer s.rst } := step_of_not_due hrst
      _ = exec i { s with chip_port := none, rst := oneNearer s.rst } :=
        runUnit_chipPort (s := { s with rst := oneNearer s.rst }) hst hp hd

theorem request_held {s : State} (h : s.req_ready = false) (q : Request) : request q s = s := by
  simp [request, h]

/-- Settles O12: every instruction but the chip commands is a request, and a request is held. -/
theorem requestHeld : Obligations.RequestHeld := by
  intro i s hi hr
  rw [exec_request hi, request_held hr]

/-! ## Instructions -/

/-- A chip command runs one operation of the chip port alone, from a memory that its frame may have made unknown
(log 3, log 11). -/
theorem exec_chipCommand {i : Instr} (hi : isChipCommand i = true) (s : State) :
    ∃ (op : State → Port) (w : State),
      exec i s = .next (runAlone op s) ∧ Extends s w ∧ (AtRest s → AtRest w) ∧ RunsFrom w (op s) := by
  cases i
  case writeRegister a v => exact ⟨_, s, rfl, .refl s, id, runsFrom_regWrite a v s⟩
  case writeRegisterOrMask a m => exact ⟨_, s, rfl, .refl s, id, runsFrom_regOr a m s⟩
  case writeRegisterAndMask a m => exact ⟨_, s, rfl, .refl s, id, runsFrom_regAnd a m s⟩
  case readRegister a => exact ⟨_, s, rfl, .refl s, id, runsFrom_regRead a s⟩
  case readEeprom a n => exact ⟨_, s, rfl, .refl s, id, runsFrom_eepromRead a n s⟩
  case sendData f =>
    refine ⟨_, { s with tag_mem := knownAfterFrame f s.tag_mem }, rfl, extends_memory _ (knownAfterFrame_wf f) rfl,
      fun h => ?_, runsFrom_sendData f _⟩
    exact h.congr rfl rfl rfl rfl
  case readData => exact ⟨_, s, rfl, .refl s, id, runsFrom_readData _ s⟩
  all_goals cases hi

theorem RunsFrom.extends {s : State} {p : Port} (h : RunsFrom s p) : Extends s p.state := by
  cases p with
  | done t => exact Exchanged.extends h
  | ended t => exact And.left h

theorem RunsFrom.atRest {s : State} {p : Port} (h : RunsFrom s p) (hs : AtRest s) : AtRest p.state := by
  cases p with
  | done t => exact Exchanged.atRest h hs
  | ended t => exact And.right h

/-- Every instruction answers a state that extends the one it began in, and is at rest where it began at rest. -/
theorem exec_extends_atRest {i : Instr} {s t : State} (h : exec i s = .next t) :
    Extends s t ∧ (AtRest s → AtRest t) := by
  cases hi : isChipCommand i with
  | false =>
    rw [exec_request hi] at h
    cases h
    exact ⟨extends_request _ s, atRest_request _⟩
  | true =>
    obtain ⟨op, w, hexec, hw, hwrest, hrun⟩ := exec_chipCommand hi s
    rw [hexec] at h
    cases h
    unfold runAlone
    split
    · exact ⟨.refl s, id⟩
    · exact ⟨hw.trans hrun.extends, fun hs => hrun.atRest (hwrest hs)⟩

theorem inv_exec {i : Instr} {s t : State} (hs : s.Inv) (h : exec i s = .next t) : t.Inv := by
  obtain ⟨hext, hrest⟩ := exec_extends_atRest h
  exact inv_of_extends hs hext (hrest (atRest_of_inv hs))

/-- Settles O37: the end of any instruction extends its beginning. -/
theorem hostSideKept : Obligations.HostSideKept := by
  intro i s t h
  obtain ⟨hext, -⟩ := exec_extends_atRest h
  obtain ⟨l, hl, -⟩ := hext.log
  exact ⟨hext.host, hext.session, hext.events, l, hl.symm⟩

/-! ## The invariant -/

theorem inv_request {s : State} (q : Request) (hs : s.Inv) : (request q s).Inv :=
  inv_of_extends hs (extends_request q s) (atRest_request q (atRest_of_inv hs))

/-- The invariant does not speak of the session and its events. -/
theorem inv_adoptTag (uid : Uid) {s : State} (hs : s.Inv) : (adoptTag uid s).Inv := by
  unfold adoptTag
  split_ifs
  · split <;> exact hs
  · exact hs

theorem inv_dropTag {s : State} (hs : s.Inv) : (dropTag s).Inv := by
  unfold dropTag
  split <;> exact hs

/-- A tick is at most two requests, with the session's own moves around them (60_exceptions.md R302). -/
theorem inv_tick {s : State} (hs : s.Inv) : (tick s).Inv := by
  have hinv : (request (.op .inventory) s).Inv := inv_request _ hs
  unfold tick
  simp only
  split
  · unfold tickInventoried
    simp only
    split
    · exact hinv
    · split
      · exact inv_dropTag hinv
      · exact inv_adoptTag _ (inv_request _ (inv_dropTag hinv))
  · exact hinv

theorem inv_runHost {s t : State} (hs : s.Inv) (h : runHost s = .next t) : t.Inv := by
  unfold runHost at h
  split at h
  · cases h; exact hs
  · cases h; exact inv_tick hs
  · next format bytes rest _ =>
    split at h
    · exact inv_exec (s := { s with host := rest }) hs h
    · cases h; exact inv_request _ hs

theorem inv_runBusy {s t : State} (hs : s.Inv) (h : runBusy s = .next t) : t.Inv := by
  rw [runBusy, (atRest_of_inv hs).not_running] at h
  split at h
  · next hr => cases hr
  · split at h <;> cases h
    exact hs

theorem inv_runUnit {s t : State} (hs : s.Inv) (h : runUnit s = .next t) : t.Inv := by
  simp only [runUnit, chip_port_of_inv hs] at h
  split_ifs at h
  · exact inv_runBusy hs h
  · exact inv_runHost hs h
  · exact inv_runBusy hs h

/-- Settles O8: a sampling point keeps the invariant, and so does whatever the unit then runs. -/
theorem stepKeepsInvariant : Obligations.StepKeepsInvariant := by
  intro s t hs h
  have hrun := runsFrom_sampleRst s
  have hsampled : (sampleRst s).state.Inv := inv_of_extends hs hrun.extends (hrun.atRest (atRest_of_inv hs))
  rw [step, if_pos (by decide)] at h
  cases hp : sampleRst s with
  | done u =>
    rw [hp] at h hsampled
    exact inv_runUnit hsampled h
  | ended u =>
    rw [hp] at h hsampled
    cases h
    exact hsampled

end Sys2Proof.Proofs
end

section
/-!
PROOFS. What a frame leaves known of the tags' memories (20_memory.md R72, R73; log 11): its code and its parameters
name the blocks that become unknown.
-/

namespace Sys2Proof.Proofs

open Sys2Proof Sys2Proof.Machine

/-! ## Reading codes, and the parts of a frame -/

theorem codeKeepsMemory_iff (code : Byte) : codeKeepsMemory code = true ↔ code ∈ readingCodes := by
  simp only [codeKeepsMemory, readingCodes, decide_eq_true_eq, List.mem_cons, List.not_mem_nil, or_false]
  tauto

theorem codeKeepsMemory_eq_false {code : Byte} (h : code ∉ readingCodes) : codeKeepsMemory code = false :=
  Bool.eq_false_iff.2 (mt (codeKeepsMemory_iff code).1 h)

/-- A frame with a reading code leaves everything known (20_memory.md R73). -/
theorem knownAfterFrame_of_reading {f : Bytes} {code : Byte} (hf : f[1]? = some code) (hc : code ∈ readingCodes)
    (m : Memory) : knownAfterFrame f m = m := by
  match f, hf with
  | fl :: _ :: rest, rfl => exact if_pos ((codeKeepsMemory_iff code).2 hc)

/-- The flags byte of a frame says whether a UID follows (30_encoding.md R93). -/
theorem flagsByte_getLsbD_five (flags : Byte) (uid : Option Uid) : (flagsByte flags uid).getLsbD 5 = uid.isSome := by
  cases uid <;> simp [flagsByte]

theorem takeUid_bytes (u : Uid) (params : Bytes) : takeUid (u.bytes ++ params) = some (u, params) := rfl

/-- The UID field and the parameters of a frame are read back as they were written (30_encoding.md R91). -/
theorem takeIf_uidField (uid : Option Uid) (params : Bytes) :
    takeIf uid.isSome takeUid ((uid.map Uid.bytes).getD [] ++ params) = some (uid, params) := by
  cases uid with
  | none => rfl
  | some u => simp [takeIf, takeUid_bytes]

/-- A frame that names its blocks makes these unknown, whatever its flags. -/
theorem knownAfterFrame_isoBytes {code flags : Byte} {uid : Option Uid} {params : Bytes} {first n : Nat}
    (hc : code ∉ readingCodes) (hb : frameBlocks code params = some (first, n)) (m : Memory) :
    knownAfterFrame (isoBytes code flags uid params) m = memForgetBlocks uid first n m := by
  simp only [isoBytes, List.cons_append, List.nil_append, knownAfterFrame, codeKeepsMemory_eq_false hc,
    Bool.false_eq_true, if_false, flagsByte_getLsbD_five, takeIf_uidField, hb]

/-- What is read after a frame that names its blocks: nothing in them, the rest as before. -/
theorem memRead_after_isoBytes {code flags : Byte} {uid : Option Uid} {params : Bytes} {first n : Nat}
    (hc : code ∉ readingCodes) (hb : frameBlocks code params = some (first, n)) (a : Nat) (m : Memory)
    {p : Prop} [Decidable p] (hp : inBlocks uid first n a = true ↔ p) :
    memRead a (knownAfterFrame (isoBytes code flags uid params) m) = if p then none else memRead a m := by
  rw [knownAfterFrame_isoBytes hc hb, memRead_memForgetBlocks]
  exact if_congr hp rfl rfl

/-! ## The blocks a frame names -/

theorem slotAddr_succ (u : Uid) (b : Nat) : slotAddr u (b + 1) = slotAddr u b + 32 := by
  simp only [slotAddr]; omega

/-- Where the addresses of some blocks of every tag stand. -/
theorem inBlocks_none (first n a : Nat) :
    inBlocks none first n a = true ↔ first ≤ a % 8192 / 32 ∧ a % 8192 / 32 < first + n := by
  simp [inBlocks]

/-- The frames of every other code name no blocks. -/
theorem frameBlocks_of_other {code : Byte} (h : code ∉ [0x21, 0x22, 0x24, 0x27, 0x28, 0x29, (0x2A : Byte)])
    (params : Bytes) : frameBlocks code params = none := by
  unfold frameBlocks
  split
  case h_8 => rfl
  all_goals
    next hcode =>
      have hvalue : code = BitVec.ofNat 8 code.toNat := by simp
      rw [hcode] at hvalue
      exact absurd (by simp [hvalue]) h

/-- A frame of a code that neither reads nor names blocks leaves nothing known (log 11). -/
theorem knownAfterFrame_of_other {code : Byte}
    (h : code ∉ readingCodes ++ [0x21, 0x22, 0x24, 0x27, 0x28, 0x29, 0x2A]) (fl : Byte) (rest : Bytes) (m : Memory) :
    knownAfterFrame (fl :: code :: rest) m = [] := by
  obtain ⟨hreading, hother⟩ := not_or.1 (mt List.mem_append.2 h)
  simp only [knownAfterFrame, codeKeepsMemory_eq_false hreading, Bool.false_eq_true, if_false,
    frameBlocks_of_other hother]
  split <;> rfl

/-- The frames of AFI and DSFID may change every block (70_reset_and_hazards.md R334). -/
theorem frameBlocks_of_identifier {code : Byte} (h : code ∈ [0x27, 0x28, 0x29, (0x2A : Byte)]) (params : Bytes) :
    frameBlocks code params = some (0, 256) ∧ code ∉ readingCodes := by
  simp only [List.mem_cons, List.not_mem_nil, or_false] at h
  rcases h with rfl | rfl | rfl | rfl <;> exact ⟨rfl, by decide⟩

/-- WRITE_SINGLE_BLOCK and LOCK_BLOCK name one block (30_encoding.md R94). -/
theorem frameBlocks_of_single {code : Byte} (h : code = 0x21 ∨ code = 0x22) (b : Byte) (rest : Bytes) :
    frameBlocks code (b :: rest) = some (b.toNat, 1) ∧ code ∉ readingCodes := by
  rcases h with rfl | rfl <;> exact ⟨rfl, by decide⟩

/-- Settles O54: each kind of frame by the blocks it names. -/
theorem frameLeavesKnown : Obligations.FrameLeavesKnown := by
  intro m a
  refine ⟨fun f => memRead_knownAfterFrame f a m, fun fl code rest hc => ?_, fun code flags uid b rest hcode => ?_,
    fun flags uid b c rest hfits => ?_, fun code flags b rest hcode => ?_, fun flags b c rest => ?_,
    fun code flags uid rest hcode => ?_, fun fl code rest hcode => ?_⟩
  · rw [knownAfterFrame_of_reading rfl hc]
  · obtain ⟨hb, hc⟩ := frameBlocks_of_single hcode b rest
    refine memRead_after_isoBytes hc hb a m ?_
    rw [← slotAddr_succ]
    exact inBlocks_some uid b.isLt
  · exact memRead_after_isoBytes (by decide) rfl a m (inBlocks_some uid (by omega))
  · obtain ⟨hb, hc⟩ := frameBlocks_of_single hcode b rest
    exact memRead_after_isoBytes hc hb a m ((inBlocks_none ..).trans (by omega))
  · exact memRead_after_isoBytes (by decide) rfl a m ((inBlocks_none ..).trans (by omega))
  · obtain ⟨hb, hc⟩ := frameBlocks_of_identifier hcode rest
    refine ⟨memRead_after_isoBytes hc hb a m (inBlocks_some uid le_rfl), ?_⟩
    have hall : inBlocks none 0 256 a = true := (inBlocks_none ..).2 (by omega)
    exact (memRead_after_isoBytes hc hb a m Iff.rfl).trans (if_pos hall)
  · rw [knownAfterFrame_of_other hcode]; rfl

end Sys2Proof.Proofs
end

section
/-!
PROOFS. The instructions that store nothing to the tag: tag memory is touched only where a transceive starts and where a
chunk is acknowledged, and a frame with a reading code changes nothing of it there (20_memory.md R73; log 11).
-/

namespace Sys2Proof.Proofs

open Sys2Proof Sys2Proof.Machine

/-! ## The chip port -/

/-- However an operation ends, its second part leaves the memory that its first part left. -/
theorem bind_tag_mem {s : State} {p : Port} {f : State → Port} (hp : p.state.tag_mem = s.tag_mem)
    (hf : ∀ t : State, (f t).state.tag_mem = t.tag_mem) : (p.bind f).state.tag_mem = s.tag_mem := by
  cases p with
  | done t => exact (hf t).trans hp
  | ended t => exact hp

theorem sampleRst_tag_mem (s : State) : (sampleRst s).state.tag_mem = s.tag_mem := by
  rcases sampleRst_cases s with ⟨-, h⟩ | ⟨n, rest, -, h⟩ | ⟨rest, -, h⟩ <;> rw [h] <;> rfl

/-- No exchange by itself changes what is known of a tag's memory. -/
theorem exchange_tag_mem (tx : Bytes) (s : State) : (exchange tx s).state.tag_mem = s.tag_mem := by
  rcases exchange_cases tx s with ⟨r, rx, -, -, -, h⟩ | ⟨r, -, -, -, h⟩ | ⟨rest, -, h⟩ <;> rw [h] <;> rfl

theorem command_tag_mem (i : Instr) (eff : List (Nat × ChipReg) → List (Nat × ChipReg)) (s : State) :
    (command i eff s).state.tag_mem = s.tag_mem :=
  bind_tag_mem (exchange_tag_mem _ s) fun _ => rfl

theorem query_tag_mem (i : Instr) (n : Nat) (s : State) : (query i n s).state.tag_mem = s.tag_mem := by
  refine bind_tag_mem (exchange_tag_mem _ s) fun t => ?_
  split
  · rfl
  · exact exchange_tag_mem _ t

theorem setMode_tag_mem (m : Word) (s : State) : (setMode m s).state.tag_mem = s.tag_mem := by
  refine bind_tag_mem (command_tag_mem _ _ s) fun t => ?_
  split
  · rfl
  · exact command_tag_mem _ _ t

/-! ## The steps of the unit that leave tag memory -/

/-- From `s` to `t` tag memory stays, and the request in `rq`, unless it ends. -/
structure Spares (s t : State) : Prop where
  mem : t.tag_mem = s.tag_mem
  rq : t.rq = s.rq ∨ AtRest t

/-- Where the start differs in neither, it may be exchanged. -/
theorem Spares.of_left {s s' t : State} (h : Spares s' t) (hm : s'.tag_mem = s.tag_mem) (hq : s'.rq = s.rq) :
    Spares s t :=
  ⟨h.mem.trans hm, h.rq.imp_left (·.trans hq)⟩

/-- After an operation of the chip port. -/
theorem RunsFrom.spares {s : State} {p : Port} {f : State → State} (hp : RunsFrom s p)
    (hm : p.state.tag_mem = s.tag_mem) (hf : ∀ t : State, Exchanged s t → Spares t (f t)) :
    Spares s (p.andThen f) := by
  cases p with
  | done t => exact (hf t hp).of_left hm (Exchanged.rq hp)
  | ended t => exact ⟨hm, .inr (And.right hp)⟩

theorem spares_regRead {s : State} {a : Byte} {f : State → State} (hf : ∀ t : State, Spares t (f t)) :
    Spares s ((regRead a s).andThen f) :=
  (runsFrom_regRead a s).spares (query_tag_mem _ _ s) fun t _ => hf t

theorem spares_setMode {s : State} {m : Word} {f : State → State} (hf : ∀ t : State, Spares t (f t)) :
    Spares s ((setMode m s).andThen f) :=
  (runsFrom_setMode m s).spares (setMode_tag_mem m s) fun t _ => hf t

theorem spares_publish (r : Rsp) (s : State) : Spares s (publish r s) := ⟨rfl, .inl rfl⟩

theorem spares_badRequest (s : State) : Spares s (badRequest s) := spares_publish _ s

theorem spares_codec (s : State) : Spares s (codec s) := by
  unfold codec
  split
  · exact ((runsFrom_clearIrq s).bind (runsFrom_setMode _)).spares
      (bind_tag_mem (command_tag_mem _ _ s) (setMode_tag_mem _)) fun t _ => spares_publish _ t
  · exact (runsFrom_regWrite _ _ s).spares (command_tag_mem _ _ s) fun t _ => spares_publish _ t
  · exact (runsFrom_regOr _ _ s).spares (command_tag_mem _ _ s) fun t _ => spares_publish _ t
  · exact (runsFrom_regAnd _ _ s).spares (command_tag_mem _ _ s) fun t _ => spares_publish _ t
  · exact spares_regRead fun t => spares_publish _ t
  · exact (runsFrom_eepromRead _ _ s).spares (query_tag_mem _ _ s) fun t _ => spares_publish _ t
  · exact spares_badRequest s

theorem spares_chkTransmit (s : State) : Spares s (chkTransmit s) := by
  unfold chkTransmit
  split
  · exact ⟨rfl, .inl rfl⟩
  · have hcleanup : Spares { s with fault := .protocolState }
        ((setMode Config.modeIdle { s with fault := .protocolState }).andThen protocolStateError) :=
      spares_setMode fun t => spares_publish _ t
    exact hcleanup.of_left rfl rfl

theorem spares_aSampled (s : State) : Spares s (aSampled s) := by
  unfold aSampled
  split_ifs <;> exact ⟨rfl, .inl rfl⟩

theorem spares_bSampled (s : State) : Spares s (bSampled s) := by
  unfold bSampled
  split_ifs <;> exact ⟨rfl, .inl rfl⟩

theorem spares_xRxstat (s : State) : Spares s (xRxstat s) := by
  refine spares_regRead fun t => ?_
  simp only
  split <;> exact ⟨rfl, .inl rfl⟩

theorem spares_decodeStep (s : State) : Spares s (decodeStep s) := by
  unfold decodeStep
  split
  · exact spares_publish _ s
  · exact spares_badRequest s

theorem spares_mRead (s : State) : Spares s (mRead s) := by
  unfold mRead
  split
  · exact spares_publish _ s
  · exact spares_badRequest s

/-- Only the start of a transceive, in VALIDATE or M_WCHUNK, and M_WCHUNK's acknowledged write touch tag memory. -/
theorem spares_seqStep {s : State} (hv : s.st ≠ .validate) (hw : s.st ≠ .mWchunk) : Spares s (seqStep s) := by
  unfold seqStep
  split
  case h_1 | h_18 | h_19 => exact ⟨rfl, .inl rfl⟩
  case h_2 h => exact absurd h hv
  case h_3 => exact spares_codec s
  case h_4 => exact (runsFrom_clearIrq s).spares (command_tag_mem _ _ s) fun t _ => ⟨rfl, .inl rfl⟩
  case h_5 => exact spares_setMode fun t => ⟨rfl, .inl rfl⟩
  case h_6 => exact spares_regRead fun t => (spares_chkTransmit _).of_left rfl rfl
  case h_7 => exact (runsFrom_sendData _ s).spares (exchange_tag_mem _ s) fun t _ => ⟨rfl, .inl rfl⟩
  case h_8 => exact spares_regRead fun t => (spares_aSampled _).of_left rfl rfl
  case h_9 => exact ⟨rfl, .inl rfl⟩
  case h_10 => exact spares_regRead fun t => (spares_bSampled _).of_left rfl rfl
  case h_11 => exact ⟨rfl, .inl rfl⟩
  case h_12 => exact spares_xRxstat s
  case h_13 => exact (runsFrom_readData _ s).spares (query_tag_mem _ _ s) fun t _ => ⟨rfl, .inl rfl⟩
  case h_14 => exact spares_setMode fun t => ⟨rfl, .inl rfl⟩
  case h_15 => exact spares_decodeStep s
  case h_16 => exact spares_mRead s
  case h_17 h => exact absurd h hw

/-! ## VALIDATE -/

theorem spares_enterTransceive {f : Bytes} {code : Byte} (hf : f[1]? = some code) (hc : code ∈ readingCodes)
    (s : State) : Spares s (enterTransceive f s) :=
  ⟨knownAfterFrame_of_reading hf hc _, .inl rfl⟩

theorem spares_startRf {f : Bytes} {code : Byte} (hf : f[1]? = some code) (hc : code ∈ readingCodes) (ok : Bool)
    (s : State) : Spares s (startRf ok f s) := by
  unfold startRf
  split
  · exact spares_enterTransceive hf hc s
  · exact spares_badRequest s

theorem spares_startCodec (ok : Bool) (s : State) : Spares s (startCodec ok s) := by
  unfold startCodec
  split
  · exact ⟨rfl, .inl rfl⟩
  · exact spares_badRequest s

/-- The command code stands in byte 1 of a frame (30_encoding.md R91). -/
theorem isoEncode_code (r : IsoReq) : (isoEncode r)[1]? = some r.cmd := by
  unfold isoEncode
  split
  · next h => rw [h]; rfl
  · rfl

/-- MEM_READ sends READ_MULTIPLE_BLOCK (44_tag_memory.md R256). -/
theorem spares_startMemRead (tag : TagRec) (offset length : Half) (s : State) :
    Spares s (startMemRead tag offset length s) := by
  unfold startMemRead
  split_ifs
  · exact spares_publish _ s
  · exact spares_publish _ s
  · exact spares_publish _ s
  · exact (spares_enterTransceive (code := 0x23) (isoEncode_code _) (by decide) _).of_left rfl rfl

theorem cmd_mem_readingCodes {i : Instr} {r : IsoReq} (hr : isoReqOf i = some r) (hk : keepsTagMemory i = true) :
    r.cmd ∈ readingCodes := by
  cases i <;> cases hr
  case isoCmd => exact of_decide_eq_true hk
  case inventory | stayQuiet | readSingleBlock | readMultipleBlock | select | resetToReady | getSystemInformation |
      getMultipleBlockSecurityStatus => exact of_decide_eq_true rfl
  all_goals cases hk

theorem spares_validate {i : Instr} {s : State} (hq : s.rq = .op i) (hk : keepsTagMemory i = true) :
    Spares s (validate s) := by
  unfold validate
  simp only [hq]
  cases hr : isoReqOf i with
  | some r => exact spares_startRf (isoEncode_code r) (cmd_mem_readingCodes hr hk) _ s
  | none =>
    cases i
    case transceive f =>
      obtain ⟨code, hf, hc⟩ := (Option.any_eq_true _ _).1 hk
      exact spares_startRf hf (of_decide_eq_true hc) _ s
    case isoRaw | raw => exact spares_startRf rfl (of_decide_eq_true hk) _ s
    case memRead => exact spares_startMemRead _ _ _ s
    case memWrite => cases hk
    case chipIdle | regWrite | regOr | regAnd | regRead | eepromRead => exact spares_startCodec _ s
    all_goals exact spares_badRequest s

/-! ## A request that leaves tag memory -/

/-- Between two steps of a request `i`: tag memory is still `m`, and `i` is being carried out or has ended. -/
def Leaving (i : Instr) (m : Memory) (s : State) : Prop :=
  s.tag_mem = m ∧ (AtRest s ∨ InProgress s ∧ s.rq = .op i)

theorem returnState_of_keeps {i : Instr} (hk : keepsTagMemory i = true) : returnState (.op i) ≠ .mWchunk := by
  cases i
  case memWrite => cases hk
  all_goals exact nofun

theorem spares_unitStep {i : Instr} {s : State} (hk : keepsTagMemory i = true) (hs : InProgress s)
    (hq : s.rq = .op i) : Spares s (unitStep s) := by
  refine (runsFrom_sampleRst s).spares (sampleRst_tag_mem s) fun t ht => ?_
  have hw : t.st ≠ .mWchunk := fun h => by
    have hret : returnState s.rq = .mWchunk := by simpa only [OnCourse, ← ht.st, h] using hs.course
    exact returnState_of_keeps hk (hq ▸ hret)
  by_cases hv : t.st = .validate
  · simpa only [seqStep, hv] using spares_validate (ht.rq.trans hq) hk
  · exact spares_seqStep hv hw

theorem leaving_unitStep {i : Instr} {m : Memory} {s : State} (hk : keepsTagMemory i = true) (h : Leaving i m s)
    (hr : s.running = true) : Leaving i m (unitStep s) := by
  obtain ⟨hm, hrest | ⟨hs, hq⟩⟩ := h
  · exact absurd hr (by simp [hrest.not_running])
  · obtain ⟨hmem, hrq⟩ := spares_unitStep hk hs hq
    refine ⟨hmem.trans hm, ?_⟩
    rcases (progress_unitStep hr).advances hs with hrest | ⟨ht, -⟩
    · exact .inl hrest
    · exact hrq.symm.imp_right fun hrq => ⟨ht, hrq.trans hq⟩

theorem request_tag_mem {i : Instr} (hk : keepsTagMemory i = true) (s : State) :
    (request (.op i) s).tag_mem = s.tag_mem := by
  unfold request
  split
  · next hr =>
    obtain ⟨hfault, -⟩ := ready_fault hr
    have hstart : Leaving i s.tag_mem (accept (.op i) s) := ⟨rfl, .inr ⟨⟨rfl, hfault, trivial⟩, rfl⟩⟩
    obtain ⟨hmem, -⟩ := runSeq_keeps (fun _ h hr => leaving_unitStep hk h hr) Config.maxSteps _ hstart
    exact hmem
  · rfl

theorem runAlone_tag_mem {op : State → Port} {s : State} (h : (op s).state.tag_mem = s.tag_mem) :
    (runAlone op s).tag_mem = s.tag_mem := by
  unfold runAlone
  split
  · rfl
  · exact h

/-- An instruction that stores nothing to the tag leaves all that is known of tag memory, whatever it ends in. -/
theorem exec_tag_mem {i : Instr} {s t : State} (hk : keepsTagMemory i = true) (h : exec i s = .next t) :
    t.tag_mem = s.tag_mem := by
  cases hi : isChipCommand i with
  | false =>
    rw [exec_request hi] at h
    cases h
    exact request_tag_mem hk s
  | true =>
    cases i
    case writeRegister | writeRegisterOrMask | writeRegisterAndMask =>
      cases h
      exact runAlone_tag_mem (command_tag_mem _ _ s)
    case readRegister | readEeprom | readData =>
      cases h
      exact runAlone_tag_mem (query_tag_mem _ _ s)
    case sendData f =>
      cases h
      obtain ⟨code, hf, hc⟩ := (Option.any_eq_true _ _).1 hk
      exact runAlone_tag_mem
        ((exchange_tag_mem _ _).trans (knownAfterFrame_of_reading hf (of_decide_eq_true hc) _))
    all_goals cases hi

/-- Settles O39: the memory as a whole stays, so each of its bytes does. -/
theorem tagMemoryKept : Obligations.TagMemoryKept := by
  intro i s t hk h a
  rw [exec_tag_mem hk h]

end Sys2Proof.Proofs
end

section
/-!
PROOFS. The decoder against the encoder (30_encoding.md R85 to R103). Each field of a frame is read back as it was written
and, read, can only have been written so: for the frame formats (R90, R91, R94, R95) `decode` answers an instruction
exactly where the bytes are its encoding. A HOST_REQ record (log 1) has more than one form, so there it is only read back.
-/

namespace Sys2Proof.Proofs

open Sys2Proof Sys2Proof.Machine

/-! ## Fields -/

theorem eq_ofNat_of_toNat {b : Byte} {n : Nat} (h : b.toNat = n) : b = BitVec.ofNat 8 n := by
  simp [← h]

theorem takeByte_eq_some {bs rest : Bytes} {b : Byte} : takeByte bs = some (b, rest) ↔ bs = b :: rest := by
  cases bs <;> simp [takeByte]

theorem onlyLe32_eq_some {bs : Bytes} {v : Word} : onlyLe32 bs = some v ↔ bs = le32 v := by
  constructor
  · intro h
    unfold onlyLe32 at h
    split at h <;> cases h
    rw [le32_u32le]
  · rintro rfl
    exact congrArg some (u32le_le32 v)

@[simp] theorem onlyLe32_le32 (v : Word) : onlyLe32 (le32 v) = some v := onlyLe32_eq_some.2 rfl

theorem takeUid_eq_some {bs rest : Bytes} {u : Uid} : takeUid bs = some (u, rest) ↔ bs = u.bytes ++ rest := by
  constructor
  · intro h
    unfold takeUid at h
    split at h <;> cases h
    rfl
  · rintro rfl
    exact takeUid_bytes u rest

/-- The UID field of a frame (30_encoding.md R91). -/
theorem takeIf_takeUid_eq_some {present : Bool} {bs rest : Bytes} {uid : Option Uid} :
    takeIf present takeUid bs = some (uid, rest) ↔ present = uid.isSome ∧ bs = uidField uid ++ rest := by
  constructor
  · intro h
    cases present with
    | false => cases h; exact ⟨rfl, rfl⟩
    | true =>
      obtain ⟨⟨u, params⟩, htake, hp⟩ := Option.map_eq_some_iff.1 h
      cases hp
      exact ⟨rfl, takeUid_eq_some.1 htake⟩
  · rintro ⟨rfl, rfl⟩
    cases uid with
    | none => rfl
    | some u => exact takeIf_uidField (some u) rest

@[simp] theorem takeLe16_le16 (v : Half) (rest : Bytes) : takeLe16 (le16 v ++ rest) = some (v, rest) := by
  have hv : v.extractLsb' 8 8 ++ v.extractLsb' 0 8 = v := by
    rw [BitVec.extractLsb'_append_extractLsb'_eq_extractLsb' (by rfl)]
    exact BitVec.extractLsb'_eq_self
  exact congrArg (fun w : Half => some (w, rest)) hv

/-- The count operand of a record (log 1). -/
theorem toNat_le16_ofNat {count : Nat} (h : count < 65536) :
    ((BitVec.ofNat 16 count).extractLsb' 8 8 ++ (BitVec.ofNat 16 count).extractLsb' 0 8).toNat = count := by
  rw [BitVec.extractLsb'_append_extractLsb'_eq_extractLsb' (by rfl)]
  exact (congrArg BitVec.toNat BitVec.extractLsb'_eq_self).trans (Nat.mod_eq_of_lt h)

/-- A Tag record (log 1). -/
theorem takeTag_tagBytes {tag : TagRec} (hbs : tag.bs < 65536) (hnb : tag.nb < 65536) (rest : Bytes) :
    takeTag (tagBytes tag ++ rest) = some (tag, rest) := by
  simp [takeTag, tagBytes, takeUid_bytes, Nat.mod_eq_of_lt, hbs, hnb]

/-- The presence byte, the flags and the UID of a record (log 1). -/
@[simp] theorem takeFlagsUid_recordFlagsUid (flags : Byte) (uid : Option Uid) (rest : Bytes) :
    takeFlagsUid (recordFlagsUid flags uid ++ rest) = some ((flags, uid), rest) := by
  cases uid <;> simp [takeFlagsUid, recordFlagsUid, takeIf, takeByte, uidField, takeUid_bytes]

/-! ## The flags byte -/

/-- Bit 0x20 is the UID's, every other bit the request's: a flags byte that already agrees with the UID is sent as it is,
and no other (30_encoding.md R93). -/
theorem flagsByte_eq_self {flags : Byte} {uid : Option Uid} :
    flagsByte flags uid = flags ↔ flagsCanonical flags uid = true := by
  have hset : ∀ b : Byte, b.getLsbD 5 = true → b ||| 0x20 = b := by decide
  have hclear : ∀ b : Byte, b.getLsbD 5 = false → b &&& 0xDF = b := by decide
  rw [flagsCanonical, beq_iff_eq]
  constructor
  · intro h
    rw [← flagsByte_getLsbD_five flags uid, h]
  · cases uid with
    | none => exact hclear flags
    | some u => exact hset flags

/-! ## The operands of an ISO command -/

/-- The layout of 30_encoding.md R94 that an `args` operand has. -/
def argsShape : IsoArgs → ArgShape
  | .none => .none
  | .block _ => .block
  | .blockData _ _ => .blockData
  | .range _ _ => .range
  | .rangeData _ _ _ => .rangeData
  | .value _ => .value
  | .raw _ => .raw

/-- Its block count, where it has one, can be written in the count field (30_encoding.md R95). -/
def countFitsField : IsoArgs → Bool
  | .range _ count | .rangeData _ count _ => countInRange count
  | _ => true

/-- Well-formed operands have the layout of their command's row. -/
theorem isoShape_of_wellFormed {cmd : Byte} {args : IsoArgs} (h : isoArgsWellFormed cmd args = true) :
    isoShape cmd = some (argsShape args) ∧ countFitsField args = true := by
  unfold isoArgsWellFormed at h
  split at h
  all_goals simp_all [isoShape, argsShape, countFitsField]

theorem countInRange_iff {count : Nat} : countInRange count = true ↔ 1 ≤ count ∧ count ≤ 256 := by
  simp [countInRange]

theorem countInRange_succ (c : Byte) : countInRange (c.toNat + 1) = true :=
  countInRange_iff.2 ⟨by omega, c.isLt⟩

theorem countField_succ (c : Byte) : countField (c.toNat + 1) = c := by
  simp [countField]

theorem toNat_countField_succ {count : Nat} (h : countInRange count = true) : (countField count).toNat + 1 = count := by
  obtain ⟨hlow, hhigh⟩ := countInRange_iff.1 h
  rw [countField, BitVec.toNat_ofNat]
  omega

theorem frameArgs_eq_some {shape : ArgShape} {bs : Bytes} {args : IsoArgs} :
    frameArgs shape bs = some args ↔
      shape = argsShape args ∧ bs = frameParams args ∧ countFitsField args = true := by
  constructor
  · intro h
    unfold frameArgs at h
    split at h <;> cases h
    case h_4 | h_5 => exact ⟨rfl, by rw [frameParams, countField_succ], countInRange_succ _⟩
    all_goals exact ⟨rfl, rfl, rfl⟩
  · rintro ⟨rfl, rfl, hcount⟩
    cases args
    case range | rangeData => simp [argsShape, frameParams, frameArgs, toNat_countField_succ hcount]
    all_goals rfl

theorem recordArgs_recordParams {args : IsoArgs} (h : countFitsField args = true) :
    recordArgs (argsShape args) (recordParams args) = some args := by
  cases args
  case range first count =>
    obtain ⟨-, hcount⟩ := countInRange_iff.1 h
    exact congrArg (fun n => some (IsoArgs.range first n)) (toNat_le16_ofNat (by omega))
  case rangeData first count data =>
    obtain ⟨-, hcount⟩ := countInRange_iff.1 h
    exact congrArg (fun n => some (IsoArgs.rangeData first n data)) (toNat_le16_ofNat (by omega))
  all_goals rfl

/-! ## ISO request frames -/

/-- The parts of a frame other than INVENTORY's: its flags byte, its UID field and its parameters (30_encoding.md R91). -/
theorem eq_isoFrame_iff {code flags : Byte} {uid : Option Uid} {args : IsoArgs} {bs : Bytes} :
    flags :: code :: bs = isoFrame code flags uid args ↔
      flagsCanonical flags uid = true ∧ bs = uidField uid ++ frameParams args := by
  rw [isoFrame, reqFlags_eq, ← flagsByte_eq_self]
  simp [eq_comm]

/-- A row's instruction is encoded as its frame, and no row is INVENTORY's here. -/
theorem encode_isoInstr {code flags : Byte} {uid : Option Uid} {args : IsoArgs} {i : Instr}
    (h : isoInstr code flags uid args = some i) :
    encode i = (.isoReq, isoFrame code flags uid args) ∧ code ≠ 0x01 := by
  unfold isoInstr at h
  split at h
  case h_20 => cases h
  all_goals
    cases h
    obtain rfl := eq_ofNat_of_toNat ‹code.toNat = _›
    exact ⟨rfl, by decide⟩

/-- The operands of every command but INVENTORY. -/
theorem isoOperands_eq_some {code flags : Byte} {shape : ArgShape} {bs : Bytes} {i : Instr} (hcode : code ≠ 0x01) :
    isoOperands code flags shape bs = some i ↔
      ∃ (uid : Option Uid) (args : IsoArgs), flags :: code :: bs = isoFrame code flags uid args ∧
        shape = argsShape args ∧ countFitsField args = true ∧ isoInstr code flags uid args = some i := by
  simp only [isoOperands, if_neg hcode, Option.bind_eq_bind, Option.bind_eq_some_iff, Prod.exists,
    takeIf_takeUid_eq_some, frameArgs_eq_some, eq_isoFrame_iff, flagsCanonical, beq_iff_eq]
  constructor
  · rintro ⟨uid, params, ⟨hflags, rfl⟩, args, ⟨hshape, rfl, hcount⟩, hi⟩
    exact ⟨uid, args, ⟨hflags, rfl⟩, hshape, hcount, hi⟩
  · rintro ⟨uid, args, ⟨hflags, rfl⟩, hshape, hcount, hi⟩
    exact ⟨uid, _, ⟨hflags, rfl⟩, args, ⟨hshape, rfl, hcount⟩, hi⟩

/-- A frame of a command but INVENTORY whose operands are well-formed decodes to its row's instruction. -/
theorem decodeIso_isoFrame {code flags : Byte} {uid : Option Uid} {args : IsoArgs} {i : Instr}
    (hi : isoInstr code flags uid args = some i) (hflags : flagsCanonical flags uid = true)
    (hargs : isoArgsWellFormed code args = true) : decodeIso (isoFrame code flags uid args) = .ok i := by
  obtain ⟨-, hcode⟩ := encode_isoInstr hi
  obtain ⟨hshape, hcount⟩ := isoShape_of_wellFormed hargs
  have hframe : flags :: code :: (uidField uid ++ frameParams args) = isoFrame code flags uid args :=
    eq_isoFrame_iff.2 ⟨hflags, rfl⟩
  have hoperands := (isoOperands_eq_some hcode).2 ⟨uid, args, hframe, rfl, hcount, hi⟩
  simp only [← hframe, decodeIso, hshape, hoperands]

/-- An ISO request frame has one reading: no bit of it is dropped. -/
theorem encode_of_decodeIso {bs : Bytes} {i : Instr} (h : decodeIso bs = .ok i) : encode i = (.isoReq, bs) := by
  unfold decodeIso at h
  split at h
  · next flags code bs =>
    split at h
    · cases h
    · split at h
      · next hoperands =>
        cases h
        by_cases hcode : code = 0x01
        · subst hcode
          simp only [isoOperands, if_true, Option.ite_none_right_eq_some] at hoperands
          obtain ⟨⟨rfl, rfl⟩, hi⟩ := hoperands
          cases hi
          rfl
        · obtain ⟨uid, args, hframe, -, -, hi⟩ := (isoOperands_eq_some hcode).1 hoperands
          rw [hframe]
          exact (encode_isoInstr hi).1
      · cases h
  · cases h

/-- A frame read as RAW says the same as its encoding (30_encoding.md R102; log 2). -/
theorem decodeIsoRaw_eq_ok {bs : Bytes} {i : Instr} :
    decodeIsoRaw bs = .ok i ↔ ∃ (code flags : Byte) (uid : Option Uid) (raw : Bytes),
      i = .raw code flags uid raw ∧ flagsCanonical flags uid = true ∧ encode i = (.isoRaw, bs) := by
  constructor
  · intro h
    unfold decodeIsoRaw at h
    split at h
    · next flags code rest =>
      split at h
      · next uid raw htake =>
        cases h
        obtain ⟨hflags, rfl⟩ := takeIf_takeUid_eq_some.1 htake
        have hcanonical : flagsCanonical flags uid = true := beq_iff_eq.2 hflags
        exact ⟨code, flags, uid, raw, rfl, hcanonical,
          congrArg (Prod.mk Format.isoRaw) (eq_isoFrame_iff.2 ⟨hcanonical, rfl⟩).symm⟩
      · cases h
    · cases h
  · rintro ⟨code, flags, uid, raw, rfl, hflags, hencode⟩
    cases hencode
    have htake : takeIf (flags.getLsbD 5) takeUid (uidField uid ++ raw) = some (uid, raw) :=
      takeIf_takeUid_eq_some.2 ⟨beq_iff_eq.1 hflags, rfl⟩
    have hframe : flags :: code :: (uidField uid ++ raw) = isoFrame code flags uid (.raw raw) :=
      eq_isoFrame_iff.2 ⟨hflags, rfl⟩
    simp only [← hframe, decodeIsoRaw, htake]

/-! ## Chip command frames -/

/-- A chip command frame is an instruction's exactly where it is its encoding (30_encoding.md R90). -/
theorem chipOperands_eq_some {opcode : Byte} {bs : Bytes} {i : Instr} :
    chipOperands opcode bs = some i ↔ encode i = (.chipCmd, opcode :: bs) := by
  constructor
  · intro h
    unfold chipOperands at h
    split_ifs at h with hop hop hop hop hop hop hop hbs
    iterate 3
      obtain ⟨⟨addr, value⟩, haddr, hvalue⟩ := Option.bind_eq_some_iff.1 h
      obtain ⟨v, hv, hi⟩ := Option.bind_eq_some_iff.1 hvalue
      cases hi
      rw [encode, hop, takeByte_eq_some.1 haddr, onlyLe32_eq_some.1 hv]
    iterate 2
      split at h <;> cases h
      rw [encode, hop]
    · split at h
      · split_ifs at h with hbits
        cases h
        rw [encode, hop, hbits]
      · cases h
    · cases h
      rw [encode, hop, hbs]
  · intro h
    cases i
    case writeRegister | writeRegisterOrMask | writeRegisterAndMask =>
      cases h
      simp [chipOperands, Config.chipOpWriteRegister, Config.chipOpWriteRegisterOrMask,
        Config.chipOpWriteRegisterAndMask, takeByte]
    all_goals cases h
    all_goals rfl

theorem isChipOpcode_of_encode {opcode : Byte} {bs : Bytes} {i : Instr} (h : encode i = (.chipCmd, opcode :: bs)) :
    isChipOpcode opcode = true := by
  cases i <;> cases h <;> rfl

theorem encode_ne_nil (i : Instr) (format : Format) : encode i ≠ (format, []) := by
  cases i <;> exact nofun

theorem decodeChip_eq_ok {bs : Bytes} {i : Instr} : decodeChip bs = .ok i ↔ encode i = (.chipCmd, bs) := by
  cases bs with
  | nil => exact ⟨nofun, fun h => absurd h (encode_ne_nil i .chipCmd)⟩
  | cons opcode bs =>
    constructor
    · intro h
      simp only [decodeChip] at h
      split_ifs at h
      split at h
      · next hoperands =>
        cases h
        exact chipOperands_eq_some.1 hoperands
      · cases h
    · intro h
      simp only [decodeChip, isChipOpcode_of_encode h, chipOperands_eq_some.2 h, if_true]

/-- Settles O2: each frame format's decoder answers an instruction only where the bytes are its encoding. -/
theorem framesHaveOneReading : Obligations.FramesHaveOneReading := by
  refine fun bs i => ⟨decodeChip_eq_ok.1, encode_of_decodeIso, fun h => ?_⟩
  obtain ⟨-, -, -, -, -, -, hencode⟩ := decodeIsoRaw_eq_ok.1 h
  exact hencode

/-! ## The round trip -/

theorem decodeHost_record {op : Byte} {bs : Bytes} {i : Instr} (hop : isHostOp op = true)
    (h : hostOperands op bs = some i) : decodeHost (op :: bs) = .ok i := by
  simp only [decodeHost, hop, h, if_true]

theorem decodeHost_encode {i : Instr} (hwf : i.wellFormed = true) (hf : (encode i).1 = .hostReq) :
    decodeHost (encode i).2 = .ok i := by
  cases i
  case transceive | chipIdle | regRead | eepromRead => rfl
  case isoCmd cmd flags uid args =>
    simp only [Instr.wellFormed, Bool.and_eq_true] at hwf
    obtain ⟨⟨hargs, -⟩, -⟩ := hwf
    obtain ⟨hshape, hcount⟩ := isoShape_of_wellFormed hargs
    refine decodeHost_record rfl ?_
    simp [hostOperands, takeByte, hshape, recordArgs_recordParams hcount]
  case memRead tag offset length =>
    simp only [Instr.wellFormed, Bool.and_eq_true, decide_eq_true_eq] at hwf
    obtain ⟨hbs, hnb⟩ := hwf
    have hlength : takeLe16 (le16 length) = some (length, []) := takeLe16_le16 length []
    refine decodeHost_record rfl ?_
    simp [hostOperands, takeTag_tagBytes hbs hnb, hlength]
  case memWrite tag offset data =>
    simp only [Instr.wellFormed, Bool.and_eq_true, decide_eq_true_eq] at hwf
    obtain ⟨⟨hbs, hnb⟩, -⟩ := hwf
    refine decodeHost_record rfl ?_
    simp [hostOperands, takeTag_tagBytes hbs hnb]
  case isoRaw =>
    refine decodeHost_record rfl ?_
    simp [hostOperands, takeByte]
  case regWrite | regOr | regAnd =>
    refine decodeHost_record rfl ?_
    simp [hostOperands, takeByte]
  all_goals cases hf

theorem decodeIso_encode {i : Instr} (hwf : i.wellFormed = true) (hf : (encode i).1 = .isoReq) :
    decodeIso (encode i).2 = .ok i := by
  cases i
  case inventory => rfl
  case stayQuiet | select | resetToReady | lockAfi | lockDsfid | getSystemInformation | readSingleBlock | lockBlock |
      writeAfi | writeDsfid =>
    exact decodeIso_isoFrame rfl hwf rfl
  case writeSingleBlock =>
    simp only [Instr.wellFormed, Bool.and_assoc] at hwf
    obtain ⟨hflags, hdata⟩ := Bool.and_eq_true_iff.1 hwf
    exact decodeIso_isoFrame rfl hflags hdata
  case readMultipleBlock | getMultipleBlockSecurityStatus =>
    obtain ⟨hflags, hcount⟩ := Bool.and_eq_true_iff.1 hwf
    exact decodeIso_isoFrame rfl hflags hcount
  case writeMultipleBlock =>
    simp only [Instr.wellFormed, Bool.and_eq_true, and_assoc] at hwf
    obtain ⟨hflags, hcount, hdata, -⟩ := hwf
    exact decodeIso_isoFrame rfl hflags (Bool.and_eq_true_iff.2 ⟨hcount, hdata⟩)
  case vendorC0 | vendorC1 | vendorC2 | vendorC3 | vendorC4 =>
    obtain ⟨hflags, -⟩ := Bool.and_eq_true_iff.1 hwf
    exact decodeIso_isoFrame rfl hflags rfl
  all_goals cases hf

theorem decodeIsoRaw_encode {i : Instr} (hwf : i.wellFormed = true) (hf : (encode i).1 = .isoRaw) :
    decodeIsoRaw (encode i).2 = .ok i := by
  cases i
  case raw code flags uid raw =>
    obtain ⟨hflags, -⟩ := Bool.and_eq_true_iff.1 hwf
    exact decodeIsoRaw_eq_ok.2 ⟨code, flags, uid, raw, rfl, hflags, rfl⟩
  all_goals cases hf

/-- Settles O1, by the format of the encoding. -/
theorem decodeEncode : Obligations.DecodeEncode := by
  intro i hwf
  cases hf : (encode i).1 with
  | hostReq => exact decodeHost_encode hwf hf
  | isoReq => exact decodeIso_encode hwf hf
  | isoRaw => exact decodeIsoRaw_encode hwf hf
  | chipCmd => exact decodeChip_eq_ok.2 (Prod.ext hf rfl)

/-! ## Fixed bytes -/

/-- Settles O3: the six words are closed, so the decoder evaluates on each. -/
theorem specWordsDecode : Obligations.SpecWordsDecode :=
  ⟨rfl, rfl, rfl, rfl, rfl, rfl⟩

/-- Settles O5: a frame but INVENTORY's begins with the flags byte. -/
theorem flagsByteAssembled : Obligations.FlagsByteAssembled := by
  refine fun flags uid => ⟨fun cmd args hcmd => ?_, fun code raw => ?_, fun args => rfl⟩
  · rw [isoEncode_eq hcmd]
    rfl
  · rw [rawFrame, isoFrame_eq]
    rfl

/-- The op codes of 30_encoding.md R87. -/
theorem mem_of_isHostOp {op : Byte} (h : isHostOp op = true) :
    op ∈ [0x01, 0x02, 0x03, 0x04, 0x05, 0x06, 0x10, 0x11, 0x12, 0x13, (0x14 : Byte)] := by
  unfold isHostOp at h
  split at h
  case h_12 => cases h
  all_goals
    obtain rfl := eq_ofNat_of_toNat ‹op.toNat = _›
    decide

/-- Settles O24: the decoder looks at the op before anything else. -/
theorem unknownOpRefused : Obligations.UnknownOpRefused := by
  intro op bs hop
  exact if_neg (mt mem_of_isHostOp hop)

end Sys2Proof.Proofs
end

section
/-!
PROOFS. What the unit reads of the request in `rq` (10_state.md R25): a record that is none ends in VALIDATE
(30_encoding.md R88, R101), and two requests with one frame and one reply decoder are carried out step by step alike
(R102, R111), so that only `rq` tells their ends apart.
-/

namespace Sys2Proof.Proofs

open Sys2Proof Sys2Proof.Machine

/-! ## A record that is no instruction -/

theorem runHost_illegal {s : State} {format : Format} {bytes : Bytes} {rest : List HostMove} {e : DecodeError}
    (hh : s.host = .record format bytes :: rest) (hd : decodeRecord format bytes = .error e) :
    runHost s = .next (request (.illegal bytes) { s with host := rest }) := by
  simp only [runHost, hh, hd]

/-- A request that VALIDATE answers ends there. -/
theorem request_of_validate_publishes {q : Request} {r : Rsp} {s : State} (hr : s.req_ready = true) (hrst : s.rst = [])
    (hv : validate (accept q s) = publish r (accept q s)) : request q s = { s with rq := q }.finished r := by
  obtain ⟨hfault, -⟩ := ready_fault hr
  have hend : publish r (accept q s) = { s with rq := q }.finished r := by
    simp only [publish, accept, hfault, if_true]
    rfl
  have hstep : request q s = runSeq (Config.maxSteps - 1) (validate (accept q s)) :=
    (request_eq hr).trans (runSeq_step (by decide) rfl hrst)
  rw [hstep, hv, hend, runSeq_idle rfl]

/-- Settles O23: the record is accepted, and VALIDATE answers it. -/
theorem illegalRecordEnds : Obligations.IllegalRecordEnds := by
  intro s format bytes rest e hh hp hr hrst hd
  have hstays : oneNearer s.rst = s.rst := by rw [hrst]; rfl
  calc step s
    _ = runUnit s := by rw [step_of_not_due (by simp [hrst]), hstays]
    _ = runHost s := runUnit_host hp hr
    _ = .next (request (.illegal bytes) { s with host := rest }) := runHost_illegal hh hd
    _ = _ := congrArg Host.Outcome.next
      (request_of_validate_publishes (s := { s with host := rest }) hr hrst rfl)

/-! ## Requests with one frame and one reply decoder -/

/-- Requests that stand for the same ISO request, or for the same raw frame (30_encoding.md R102, R111). -/
inductive Alike : Instr → Instr → Prop where
  | iso {i j : Instr} {r : IsoReq} : isoReqOf i = some r → isoReqOf j = some r → Alike i j
  | raw (code flags : Byte) (uid : Option Uid) (raw : Bytes) :
      Alike (.raw code flags uid raw) (.isoRaw code flags uid raw)

theorem isChipCommand_of_isoReqOf {i : Instr} {r : IsoReq} (h : isoReqOf i = some r) : isChipCommand i = false := by
  cases i <;> cases h <;> rfl

theorem returnState_of_isoReqOf {i : Instr} {r : IsoReq} (h : isoReqOf i = some r) : returnState (.op i) = .decode := by
  cases i <;> cases h <;> rfl

section Alike

variable {i j : Instr}

theorem Alike.isChipCommand (h : Alike i j) : isChipCommand i = false ∧ isChipCommand j = false := by
  cases h with
  | iso hi hj => exact ⟨isChipCommand_of_isoReqOf hi, isChipCommand_of_isoReqOf hj⟩
  | raw => exact ⟨rfl, rfl⟩

theorem Alike.returnState (h : Alike i j) : returnState (.op i) = .decode ∧ returnState (.op j) = .decode := by
  cases h with
  | iso hi hj => exact ⟨returnState_of_isoReqOf hi, returnState_of_isoReqOf hj⟩
  | raw => exact ⟨rfl, rfl⟩

theorem Alike.decodeReply_eq (h : Alike i j) : decodeReply i = decodeReply j := by
  funext fl pl
  cases h with
  | iso hi hj => simp only [decodeReply, hi, hj]
  | raw => rfl

end Alike

/-! ## Twin states -/

/-- The states of R22 on the way of an ISO command: neither CODEC nor the mapper's. -/
def onIsoWay : St → Bool
  | .codec | .mRead | .mWchunk => false
  | _ => true

/-- A state of a run of `i` and the same of a run of `j` beside it: no reset to come, and only `rq` differs. -/
structure Twin (i j : Instr) (s t : State) : Prop where
  rst : s.rst = []
  rq : s.rq = .op i
  way : onIsoWay s.st = true
  eq : t = { s with rq := .op j }

/-- The two runs end an operation in the same way. -/
inductive TwinPort (i j : Instr) : Port → Port → Prop where
  | done {s t : State} : Twin i j s t → TwinPort i j (.done s) (.done t)
  | ended {s t : State} : Twin i j s t → TwinPort i j (.ended s) (.ended t)

section Twin

variable {i j : Instr} {s t : State}

theorem Twin.rq_right (h : Twin i j s t) : t.rq = .op j := by rw [h.eq]

theorem TwinPort.bind {p q : Port} {f : State → Port} (h : TwinPort i j p q)
    (hf : ∀ {s t : State}, Twin i j s t → TwinPort i j (f s) (f t)) : TwinPort i j (p.bind f) (q.bind f) := by
  cases h with
  | done h => exact hf h
  | ended h => exact .ended h

theorem TwinPort.andThen {p q : Port} {f : State → State} (h : TwinPort i j p q)
    (hf : ∀ {s t : State}, Twin i j s t → Twin i j (f s) (f t)) : Twin i j (p.andThen f) (q.andThen f) := by
  cases h with
  | done h => exact hf h
  | ended h => exact h

/-! ### The chip port -/

theorem twin_exchange (tx : Bytes) (h : Twin i j s t) : TwinPort i j (exchange tx s) (exchange tx t) := by
  obtain ⟨hrst, hrq, hway, rfl⟩ := h
  cases ha : answerAt 0 tx.length s with
  | none =>
    rw [exchange_none hrst ha, exchange_none (s := { s with rq := .op j }) hrst ha]
    exact .ended ⟨hrst, hrq, rfl, rfl⟩
  | some rx =>
    rw [exchange_some hrst ha, exchange_some (s := { s with rq := .op j }) hrst ha]
    exact .done ⟨hrst, hrq, hway, rfl⟩

theorem twin_command (c : Instr) (eff : List (Nat × ChipReg) → List (Nat × ChipReg)) (h : Twin i j s t) :
    TwinPort i j (command c eff s) (command c eff t) :=
  (twin_exchange _ h).bind fun ⟨hrst, hrq, hway, heq⟩ => .done ⟨hrst, hrq, hway, by rw [heq]⟩

theorem twin_query (c : Instr) (n : Nat) (h : Twin i j s t) : TwinPort i j (query c n s) (query c n t) := by
  refine (twin_exchange _ h).bind fun ht => ?_
  split
  · obtain ⟨hrst, hrq, hway, rfl⟩ := ht
    exact .done ⟨hrst, hrq, hway, rfl⟩
  · exact twin_exchange _ ht

theorem twin_setMode (m : Word) (h : Twin i j s t) : TwinPort i j (setMode m s) (setMode m t) := by
  refine (twin_command _ _ h).bind fun ht => ?_
  split
  · exact .done ht
  · exact twin_command _ _ ht

/-! ### The states of R22 -/

theorem twin_publish (r : Rsp) (h : Twin i j s t) : Twin i j (publish r s) (publish r t) := by
  obtain ⟨hrst, hrq, -, rfl⟩ := h
  refine ⟨hrst, hrq, ?_, rfl⟩
  rw [publish_st]
  split <;> rfl

theorem twin_startRf (ok : Bool) (f : Bytes) (h : Twin i j s t) : Twin i j (startRf ok f s) (startRf ok f t) := by
  unfold startRf
  split
  · obtain ⟨hrst, hrq, -, rfl⟩ := h
    exact ⟨hrst, hrq, rfl, rfl⟩
  · exact twin_publish _ h

theorem validate_raw {code flags : Byte} {uid : Option Uid} {raw : Bytes}
    (h : s.rq = .op (.raw code flags uid raw) ∨ s.rq = .op (.isoRaw code flags uid raw)) :
    validate s = startRaw code flags uid raw s := by
  unfold validate
  rcases h with h | h <;> rw [h] <;> rfl

theorem twin_validate (hij : Alike i j) (h : Twin i j s t) : Twin i j (validate s) (validate t) := by
  cases hij with
  | iso hi hj =>
    rw [validate_iso hi h.rq, validate_iso hj h.rq_right]
    exact twin_startRf _ _ h
  | raw =>
    rw [validate_raw (.inl h.rq), validate_raw (.inr h.rq_right)]
    exact twin_startRf _ _ h

theorem twin_chkTransmit (h : Twin i j s t) : Twin i j (chkTransmit s) (chkTransmit t) := by
  obtain ⟨hrst, hrq, hway, rfl⟩ := h
  have hlatched : Twin i j { s with fault := .protocolState } { s with fault := .protocolState, rq := .op j } :=
    ⟨hrst, hrq, hway, rfl⟩
  unfold chkTransmit
  dsimp only
  split
  · exact ⟨hrst, hrq, rfl, rfl⟩
  · refine (twin_setMode Config.modeIdle hlatched).andThen fun ht => ?_
    obtain ⟨hrst, hrq, hway, rfl⟩ := ht
    exact twin_publish _ ⟨hrst, hrq, hway, rfl⟩

theorem twin_aSampled (h : Twin i j s t) : Twin i j (aSampled s) (aSampled t) := by
  obtain ⟨hrst, hrq, -, rfl⟩ := h
  unfold aSampled
  dsimp only
  split_ifs <;> exact ⟨hrst, hrq, rfl, rfl⟩

theorem twin_bSampled (h : Twin i j s t) : Twin i j (bSampled s) (bSampled t) := by
  obtain ⟨hrst, hrq, -, rfl⟩ := h
  unfold bSampled
  dsimp only
  split_ifs <;> exact ⟨hrst, hrq, rfl, rfl⟩

theorem twin_xRxstat (h : Twin i j s t) : Twin i j (xRxstat s) (xRxstat t) := by
  refine (twin_query _ _ h).andThen fun ht => ?_
  obtain ⟨hrst, hrq, -, rfl⟩ := ht
  dsimp only
  split_ifs <;> exact ⟨hrst, hrq, rfl, rfl⟩

theorem twin_xRestore (hij : Alike i j) (h : Twin i j s t) : Twin i j (xRestore s) (xRestore t) := by
  obtain ⟨hi, hj⟩ := hij.returnState
  refine (twin_setMode _ h).andThen fun ht => ?_
  rw [ht.rq, ht.rq_right, hi, hj]
  obtain ⟨hrst, hrq, -, rfl⟩ := ht
  exact ⟨hrst, rfl, rfl, rfl⟩

theorem decodeStep_of_rq (h : s.rq = .op i) : decodeStep s = publish (decodeReply i s.tflags s.tpayload) s := by
  simp only [decodeStep, h]

theorem twin_decodeStep (hij : Alike i j) (h : Twin i j s t) : Twin i j (decodeStep s) (decodeStep t) := by
  have hreply : decodeReply j t.tflags t.tpayload = decodeReply i s.tflags s.tpayload := by
    simp only [hij.decodeReply_eq, h.eq]
  rw [decodeStep_of_rq h.rq, decodeStep_of_rq h.rq_right, hreply]
  exact twin_publish _ h

/-- A step of the unit takes twins to twins: VALIDATE, the restore and DECODE read the request, no other state does. -/
theorem twin_seqStep (hij : Alike i j) (h : Twin i j s t) : Twin i j (seqStep s) (seqStep t) := by
  have hway := h.way
  have hst : t.st = s.st := by rw [h.eq]
  have htxf : t.txf = s.txf := by rw [h.eq]
  have hrxn : t.rxn = s.rxn := by rw [h.eq]
  unfold seqStep
  rw [hst]
  cases hs : s.st <;> rw [hs] at hway
  case codec | mRead | mWchunk => cases hway
  case ready | done | fault => exact h
  case validate => exact twin_validate hij h
  case xClr => exact (twin_command _ _ h).andThen fun ⟨hrst, hrq, _, heq⟩ => ⟨hrst, hrq, rfl, by rw [heq]⟩
  case xMode => exact (twin_setMode _ h).andThen fun ⟨hrst, hrq, _, heq⟩ => ⟨hrst, hrq, rfl, by rw [heq]⟩
  case xChk =>
    exact (twin_query _ _ h).andThen fun ⟨hrst, hrq, hway, heq⟩ => twin_chkTransmit ⟨hrst, hrq, hway, by rw [heq]⟩
  case xSend =>
    simp only [xSend, htxf]
    exact (twin_exchange _ h).andThen fun ⟨hrst, hrq, _, heq⟩ => ⟨hrst, hrq, rfl, by rw [heq]⟩
  case xASample =>
    exact (twin_query _ _ h).andThen fun ⟨hrst, hrq, hway, heq⟩ => twin_aSampled ⟨hrst, hrq, hway, by rw [heq]⟩
  case xBSample =>
    exact (twin_query _ _ h).andThen fun ⟨hrst, hrq, hway, heq⟩ => twin_bSampled ⟨hrst, hrq, hway, by rw [heq]⟩
  case xAWait | xBWait =>
    obtain ⟨hrst, hrq, -, rfl⟩ := h
    exact ⟨hrst, hrq, rfl, rfl⟩
  case xRxstat => exact twin_xRxstat h
  case xRxdata =>
    simp only [xRxdata, hrxn]
    exact (twin_query _ _ h).andThen fun ⟨hrst, hrq, _, heq⟩ => ⟨hrst, hrq, rfl, by rw [heq]⟩
  case xRestore => exact twin_xRestore hij h
  case decode => exact twin_decodeStep hij h

theorem twin_runSeq (hij : Alike i j) : ∀ (n : Nat) {s t : State}, Twin i j s t → Twin i j (runSeq n s) (runSeq n t)
  | 0, _, _, h => h
  | n + 1, s, t, h => by
    have hrunning : t.running = s.running := by rw [h.eq]; rfl
    have hrst : t.rst = [] := by rw [h.eq]; exact h.rst
    simp only [runSeq, hrunning, unitStep_nil h.rst, unitStep_nil hrst]
    split
    · exact twin_runSeq hij n (twin_seqStep hij h)
    · exact h

/-- Two alike requests end in states that differ in `rq` alone. -/
theorem exec_alike (hij : Alike i j) (hr : s.req_ready = true) (hrst : s.rst = []) :
    ∃ t : State, exec i s = .next t ∧ exec j s = .next { t with rq := .op j } := by
  obtain ⟨hi, hj⟩ := hij.isChipCommand
  have hstart : Twin i j (accept (.op i) s) (accept (.op j) s) := ⟨hrst, rfl, rfl, rfl⟩
  have hend := twin_runSeq hij Config.maxSteps hstart
  rw [exec_request hi, exec_request hj, request_eq hr, request_eq hr, hend.eq]
  exact ⟨_, rfl, rfl⟩

end Twin

/-- A mnemonic stands for the ISO_CMD of its row (30_encoding.md R94, R111). -/
theorem isoReqOf_mnemonic {i : Instr} {cmd flags : Byte} {uid : Option Uid} {args : IsoArgs}
    (h : mnemonicOf i = some (cmd, flags, uid, args)) : isoReqOf i = some ⟨cmd, flags, uid, args⟩ := by
  cases i <;> cases h <;> rfl

/-- Settles O31: a mnemonic and its ISO_CMD are alike, and so are RAW and ISO_RAW. -/
theorem mnemonicsAreIsoCmd : Obligations.MnemonicsAreIsoCmd :=
  ⟨fun _ _ _ _ _ _ h hr hrst => exec_alike (.iso (isoReqOf_mnemonic h) rfl) hr hrst,
    fun code flags uid raw _ hr hrst => exec_alike (.raw code flags uid raw) hr hrst⟩

end Sys2Proof.Proofs
end

section
/-!
PROOFS. The chip's registers as commanded (40_chip_port.md R117 to R119; log 12): what a write, an OR and an AND leave
known of the register they name, bit by bit.
-/

namespace Sys2Proof.Proofs

open Sys2Proof Sys2Proof.Machine

section Commanded

variable (a : Byte) (m v : Word) (img : List (Nat × ChipReg))

/-! ## The register named -/

theorem chipReg_chipRegWrite_self : chipReg a (chipRegWrite a v img) = ⟨BitVec.allOnes 32, v⟩ := by
  rw [chipRegWrite, chipReg_chipRegSet, if_pos rfl, if_neg (by decide : ¬BitVec.allOnes 32 = 0)]

/-- A register of which nothing is known reads as `⟨0, 0⟩`, so its known bits are as recorded in any case. -/
theorem known_chipRegSet_self (r : ChipReg) : (chipReg a (chipRegSet a r img)).known = r.known := by
  rw [chipReg_chipRegSet, if_pos rfl]
  split
  · next h => exact h.symm
  · rfl

theorem chipReg_chipRegSet_self {r : ChipReg} (h : r.known ≠ 0) : chipReg a (chipRegSet a r img) = r := by
  rw [chipReg_chipRegSet, if_pos rfl, if_neg h]

theorem known_chipRegOr_self : (chipReg a (chipRegOr a m img)).known = (chipReg a img).known ||| m :=
  known_chipRegSet_self ..

theorem known_chipRegAnd_self : (chipReg a (chipRegAnd a m img)).known = (chipReg a img).known ||| ~~~m :=
  known_chipRegSet_self ..

/-- An OR with a mask that is not empty fixes a bit, so the register is listed after it. -/
theorem chipReg_chipRegOr_self (h : m ≠ 0) :
    chipReg a (chipRegOr a m img) = ⟨(chipReg a img).known ||| m, (chipReg a img).value ||| m⟩ :=
  chipReg_chipRegSet_self _ _ fun hk => h (BitVec.or_eq_zero_iff.1 hk).2

/-- An AND with a mask that has a zero fixes a bit, so the register is listed after it. -/
theorem chipReg_chipRegAnd_self (h : ~~~m ≠ 0) :
    chipReg a (chipRegAnd a m img) = ⟨(chipReg a img).known ||| ~~~m, (chipReg a img).value &&& m⟩ :=
  chipReg_chipRegSet_self _ _ fun hk => h (BitVec.or_eq_zero_iff.1 hk).2

/-! ## The other registers -/

section Other

variable {a}
variable {b : Byte} (h : b ≠ a)

include h

theorem chipReg_chipRegWrite_other : chipReg b (chipRegWrite a v img) = chipReg b img := by
  rw [chipRegWrite, chipReg_chipRegSet, if_neg h]

theorem chipReg_chipRegOr_other : chipReg b (chipRegOr a m img) = chipReg b img := by
  simp only [chipRegOr, chipReg_chipRegSet, if_neg h]

theorem chipReg_chipRegAnd_other : chipReg b (chipRegAnd a m img) = chipReg b img := by
  simp only [chipRegAnd, chipReg_chipRegSet, if_neg h]

end Other

end Commanded

/-! ## Values that agree with what is known -/

/-- The value `x` has the known bits of a register. -/
def Agrees (x : Word) (r : ChipReg) : Prop := x &&& r.known = r.value &&& r.known

/-- Every value agrees with a register of which nothing is known, so agreeing with what was recorded is enough. -/
theorem Agrees.chipRegSet_self {x : Word} {r : ChipReg} (h : Agrees x r) (a : Byte) (img : List (Nat × ChipReg)) :
    Agrees x (chipReg a (chipRegSet a r img)) := by
  rw [chipReg_chipRegSet, if_pos rfl]
  split
  · simp [Agrees]
  · exact h

theorem or_and_or_self (x k m : Word) : (x ||| m) &&& (k ||| m) = (x &&& k) ||| m := by
  ext i hi
  simp only [BitVec.getElem_and, BitVec.getElem_or]
  exact (Bool.or_and_distrib_right ..).symm

theorem and_and_or_not (x k m : Word) : (x &&& m) &&& (k ||| ~~~m) = (x &&& k) &&& m := by
  calc (x &&& m) &&& (k ||| ~~~m)
    _ = (x &&& m &&& k) ||| (x &&& m &&& ~~~m) := BitVec.and_or_distrib_left
    _ = x &&& k &&& m := by simp [BitVec.and_assoc, BitVec.and_comm m k]

section Agrees

variable {x : Word} {a : Byte} {img : List (Nat × ChipReg)} (h : Agrees x (chipReg a img)) (m : Word)

include h

/-- `reg[a] | m` computed from a value that agrees (40_chip_port.md R118). -/
theorem Agrees.chipRegOr : Agrees (x ||| m) (chipReg a (chipRegOr a m img)) := by
  refine Agrees.chipRegSet_self ?_ a img
  calc (x ||| m) &&& ((chipReg a img).known ||| m)
    _ = (x &&& (chipReg a img).known) ||| m := or_and_or_self ..
    _ = ((chipReg a img).value &&& (chipReg a img).known) ||| m := congrArg (· ||| m) h
    _ = ((chipReg a img).value ||| m) &&& ((chipReg a img).known ||| m) := (or_and_or_self ..).symm

/-- `reg[a] & m` computed from a value that agrees (R119). -/
theorem Agrees.chipRegAnd : Agrees (x &&& m) (chipReg a (chipRegAnd a m img)) := by
  refine Agrees.chipRegSet_self ?_ a img
  calc (x &&& m) &&& ((chipReg a img).known ||| ~~~m)
    _ = (x &&& (chipReg a img).known) &&& m := and_and_or_not ..
    _ = ((chipReg a img).value &&& (chipReg a img).known) &&& m := congrArg (· &&& m) h
    _ = ((chipReg a img).value &&& m) &&& ((chipReg a img).known ||| ~~~m) := (and_and_or_not ..).symm

end Agrees

/-- Settles O53: the register named, the values that agree with it, and the others. -/
theorem chipRegistersCommanded : Obligations.ChipRegistersCommanded := by
  intro a v x img
  exact ⟨chipReg_chipRegWrite_self a v img, known_chipRegOr_self a v img, known_chipRegAnd_self a v img,
    fun h => ⟨Agrees.chipRegOr h v, Agrees.chipRegAnd h v⟩,
    fun b hb => ⟨chipReg_chipRegWrite_other v img hb, chipReg_chipRegOr_other v img hb,
      chipReg_chipRegAnd_other v img hb⟩⟩

end Sys2Proof.Proofs
end

section
/-!
PROOFS. The passthrough requests and the chip commands run alone (40_chip_port.md R117 to R132). Where no reset is to
come an operation of the chip port is a list of exchanges and an effect on the chip's registers; a request and a command
run alone put the same operation to use and differ in how they end.
-/

namespace Sys2Proof.Proofs

open Sys2Proof Sys2Proof.Machine

/-! ## Operations of the chip port -/

/-- What a command does to what is known of the chip's registers (log 12). -/
abbrev ChipEffect := List (Nat × ChipReg) → List (Nat × ChipReg)

/-- The state after these exchanges have returned, with this effect on the chip's registers as commanded. -/
def doneAfter (txs : List Bytes) (eff : ChipEffect) (s : State) : State :=
  { s.afterExchanges txs with chip_img := eff s.chip_img }

/-- Where no reset is to come, the operation makes these exchanges and then has this effect, or ends the request at the
first exchange that fails. -/
def Performs (op : State → Port) (txs : List Bytes) (eff : ChipEffect) : Prop :=
  ∀ s : State, s.rst = [] →
    op s = if s.allReturn txs then .done (doneAfter txs eff s)
      else .ended (s.afterExchanges (triedFrom 0 s txs)).transportFailed

/-- A single exchange is tried in any case. -/
theorem triedFrom_one (k : Nat) (s : State) (tx : Bytes) : triedFrom k s [tx] = [tx] := by
  simp [triedFrom]

theorem performs_exchange (tx : Bytes) : Performs (exchange tx) [tx] id := by
  intro s h
  rw [allReturn_one, triedFrom_one]
  cases ha : answerAt 0 tx.length s with
  | none => rw [exchange_none h ha]; rfl
  | some rx => rw [exchange_some h ha]; rfl

theorem performs_command (i : Instr) (eff : ChipEffect) : Performs (command i eff) [(encode i).2] eff := by
  intro s h
  rw [triedFrom_one]
  exact command_eq i eff h

theorem performs_query (i : Instr) {n : Nat} (hn : n ≠ 0) :
    Performs (query i n) [(encode i).2, List.replicate n 0xFF] id :=
  fun _ h => query_eq i hn h

/-! ### One operation after another -/

theorem triedFrom_congr {s t : State} (h1 : s.chip_in = t.chip_in) (h2 : s.nx = t.nx) :
    ∀ (txs : List Bytes) (k : Nat), triedFrom k s txs = triedFrom k t txs
  | [], _ => rfl
  | tx :: txs, k => by simp only [triedFrom, answerAt_congr h1 h2, triedFrom_congr h1 h2 txs]

theorem triedFrom_afterExchanges (l l' : List Bytes) (s : State) (k : Nat) :
    triedFrom k (s.afterExchanges l) l' = triedFrom (l.length + k) s l' := by
  induction l' generalizing k with
  | nil => rfl
  | cons tx l' ih => simp only [triedFrom, answerAt_afterExchanges, ih, Nat.add_assoc]

/-- The second list is begun where the whole first one returns. -/
theorem triedFrom_append (s : State) (l l' : List Bytes) (k : Nat) :
    triedFrom k s (l ++ l') = if (sentFrom k s l).all fun x => x.rx.isSome then l ++ triedFrom (l.length + k) s l'
      else triedFrom k s l := by
  induction l generalizing k with
  | nil => simp [sentFrom]
  | cons tx l ih =>
    cases ha : (answerAt k tx.length s).isSome with
    | false => simp [triedFrom, sentFrom, ha]
    | true =>
      simp only [List.cons_append, triedFrom, sentFrom, ha, if_true, ih, List.all_cons, Bool.true_and,
        List.length_cons, Nat.add_assoc, Nat.add_comm 1]
      split <;> rfl

/-- What is known of the chip's registers has no part in an exchange. -/
theorem afterExchanges_doneAfter (l l' : List Bytes) (eff : ChipEffect) (s : State) :
    (doneAfter l eff s).afterExchanges l' = { s.afterExchanges (l ++ l') with chip_img := eff s.chip_img } := by
  rw [afterExchanges_append]
  simp only [State.afterExchanges, State.sent,
    sentFrom_congr (s := doneAfter l eff s) (t := s.afterExchanges l) rfl rfl]
  rfl

theorem doneAfter_doneAfter (l l' : List Bytes) (eff eff' : ChipEffect) (s : State) :
    doneAfter l' eff' (doneAfter l eff s) = doneAfter (l ++ l') (eff' ∘ eff) s := by
  rw [doneAfter, afterExchanges_doneAfter]
  rfl

theorem transportFailed_doneAfter (l l' : List Bytes) (eff : ChipEffect) (s : State) :
    ((doneAfter l eff s).afterExchanges l').transportFailed = (s.afterExchanges (l ++ l')).transportFailed := by
  rw [afterExchanges_doneAfter]
  rfl

theorem Performs.bind {op op' : State → Port} {l l' : List Bytes} {eff eff' : ChipEffect}
    (h : Performs op l eff) (h' : Performs op' l' eff') :
    Performs (fun s => (op s).bind op') (l ++ l') (eff' ∘ eff) := by
  intro s hs
  have hret : (doneAfter l eff s).allReturn l' = (s.afterExchanges l).allReturn l' :=
    allReturn_congr (s := doneAfter l eff s) (t := s.afterExchanges l) rfl rfl l'
  have htried : triedFrom 0 (doneAfter l eff s) l' = triedFrom l.length s l' :=
    (triedFrom_congr (s := doneAfter l eff s) (t := s.afterExchanges l) rfl rfl l' 0).trans
      (triedFrom_afterExchanges l l' s 0)
  have happend : triedFrom 0 s (l ++ l') =
      if s.allReturn l then l ++ triedFrom l.length s l' else triedFrom 0 s l := triedFrom_append s l l' 0
  simp only [h s hs, allReturn_append, happend]
  cases s.allReturn l with
  | false => rfl
  | true =>
    have hsecond := h' (doneAfter l eff s) hs
    rw [hret, htried, doneAfter_doneAfter, transportFailed_doneAfter] at hsecond
    exact hsecond

/-! ### The operations of R117 to R126 -/

theorem performs_regWrite (a : Byte) (v : Word) :
    Performs (regWrite a v) [[0x00, a] ++ le32 v] (chipRegWrite a v) := performs_command (.writeRegister a v) _

theorem performs_regOr (a : Byte) (m : Word) : Performs (regOr a m) [[0x01, a] ++ le32 m] (chipRegOr a m) :=
  performs_command (.writeRegisterOrMask a m) _

theorem performs_regAnd (a : Byte) (m : Word) : Performs (regAnd a m) [[0x02, a] ++ le32 m] (chipRegAnd a m) :=
  performs_command (.writeRegisterAndMask a m) _

theorem performs_regRead (a : Byte) : Performs (regRead a) (readTx a) id :=
  performs_query (.readRegister a) (by decide)

theorem performs_eepromRead (a : Byte) {n : Byte} (hn : n ≠ 0) :
    Performs (eepromRead a n) [[0x07, a, n], List.replicate n.toNat 0xFF] id :=
  performs_query (.readEeprom a n) fun h => hn (BitVec.eq_of_toNat_eq h)

theorem performs_sendData (f : Bytes) : Performs (sendData f) [[0x09, 0x00] ++ f] id := performs_exchange _

theorem performs_readData {n : Nat} (hn : n ≠ 0) : Performs (readData n) [[0x0A, 0x00], List.replicate n 0xFF] id :=
  performs_query .readData hn

theorem performs_clearIrq : Performs clearIrq [clearIrqTx] (chipRegWrite 0x03 0x000FFFFF) :=
  performs_regWrite Config.regIrqClear Config.irqClearAll

theorem performs_setMode_idle : Performs (setMode Config.modeIdle) [modeAndTx] idleImg := by
  intro s h
  rw [triedFrom_one]
  exact setMode_idle_eq h

/-! ## The chip commands alone -/

/-- An operation's exchanges are an attempt, in the sense of Safety.lean. -/
theorem Performs.state_eq {op : State → Port} {txs : List Bytes} {eff : ChipEffect} (h : Performs op txs eff)
    {s : State} (hs : s.rst = []) : (op s).state = s.attempt txs fun t => { t with chip_img := eff t.chip_img } := by
  rw [h s hs, State.attempt]
  split <;> rfl

theorem Performs.runAlone {op : State → Port} {txs : List Bytes} {eff : ChipEffect} (h : Performs op txs eff)
    {s : State} (hs : s.rst = []) (hst : s.st ≠ .fault) :
    runAlone op s = s.attempt txs fun t => { t with chip_img := eff t.chip_img } :=
  (runAlone_of hst).trans (h.state_eq hs)

/-- With nothing to read there is one exchange, and no bytes are returned (log 22). -/
theorem state_query_zero (i : Instr) {s : State} (hs : s.rst = []) :
    (query i 0 s).state = s.attempt [(encode i).2] fun t => { t with ret := [] } := by
  have h := performs_exchange (encode i).2 s hs
  rw [query, h, State.attempt]
  split <;> rfl

/-- Settles O19: each of the three is its operation run alone. -/
theorem chipWritesRun : Obligations.ChipWritesRun := by
  intro addr v s hs hst
  exact ⟨congrArg _ ((performs_regWrite addr v).runAlone hs hst),
    congrArg _ ((performs_regOr addr v).runAlone hs hst), congrArg _ ((performs_regAnd addr v).runAlone hs hst)⟩

/-- Settles O20: a read is its operation run alone; the count is the operand's, or the register `rxn`. -/
theorem chipReadsRun : Obligations.ChipReadsRun := by
  intro addr len s hs hst
  refine ⟨congrArg _ ((performs_regRead addr).runAlone hs hst),
    fun hlen => congrArg _ ((performs_eepromRead addr hlen).runAlone hs hst), fun hlen => ?_, fun hn => ?_,
    fun hn => ?_⟩
  · subst hlen
    exact congrArg _ ((runAlone_of hst).trans (state_query_zero (.readEeprom addr 0) hs))
  · have hcount : s.rxn.toNat ≠ 0 := fun h => hn (BitVec.eq_of_toNat_eq h)
    exact congrArg _ ((runAlone_of hst).trans ((performs_readData hcount).state_eq hs))
  · have hzero : readData s.rxn.toNat s = query .readData 0 s := by rw [hn]; rfl
    exact congrArg _ ((runAlone_of hst).trans ((congrArg Port.state hzero).trans (state_query_zero .readData hs)))

/-- Settles O21: the frame's effect on tag memory is settled before its one exchange. -/
theorem chipSendRuns : Obligations.ChipSendRuns := by
  intro frame s hs hst
  have hsend := (performs_sendData frame).state_eq (s := { s with tag_mem := knownAfterFrame frame s.tag_mem }) hs
  exact congrArg _ ((runAlone_of hst).trans hsend)

/-! ## The passthrough requests -/

/-- The state in which CODEC carries out the request in `rq`. -/
def inCodec (s : State) : State := { s with rsp_valid := false, st := .codec }

theorem afterExchanges_inCodec (l : List Bytes) (s : State) :
    (inCodec s).afterExchanges l = inCodec (s.afterExchanges l) := by
  simp only [State.afterExchanges, State.sent, sentFrom_congr (s := inCodec s) (t := s) rfl rfl]
  rfl

theorem publish_inCodec {s : State} (h : s.fault = .none) (r : Rsp) : publish r (inCodec s) = s.finished r := by
  simp only [publish, inCodec, State.finished, State.responded, h, if_true]

section Codec

variable {op : State → Port} {txs : List Bytes} {eff : ChipEffect}

/-- An operation in CODEC, and the publication of a response made of the bytes it returned. -/
theorem Performs.andThen_publish (h : Performs op txs eff) (r : Bytes → Rsp) {s : State} (hs : s.rst = [])
    (hf : s.fault = .none) :
    (op (inCodec s)).andThen (fun t => publish (r t.ret) t) =
      s.attempt txs fun t => { t.finished (r t.ret) with chip_img := eff t.chip_img } := by
  have hret : (inCodec s).allReturn txs = s.allReturn txs := allReturn_congr (s := inCodec s) (t := s) rfl rfl txs
  have htried : triedFrom 0 (inCodec s) txs = triedFrom 0 s txs :=
    triedFrom_congr (s := inCodec s) (t := s) rfl rfl txs 0
  rw [h (inCodec s) hs, hret, htried, afterExchanges_inCodec, State.attempt]
  split
  · rw [doneAfter, afterExchanges_inCodec]
    exact publish_inCodec (s := { s.afterExchanges txs with chip_img := eff s.chip_img }) hf _
  · rfl

theorem running_attempt (r : State → Rsp) (img : State → List (Nat × ChipReg)) (s : State) :
    (s.attempt txs fun t => { t.finished (r t) with chip_img := img t }).running = false := by
  rw [State.attempt]
  split <;> rfl

/-- A request that passes VALIDATE to CODEC ends where its operation and its publication end. -/
theorem exec_codec {i : Instr} {s : State} (h : Performs op txs eff) (r : Bytes → Rsp) (hi : isChipCommand i = false)
    (hr : s.req_ready = true) (hrst : s.rst = [])
    (hv : validate (accept (.op i) s) = inCodec { s with rq := .op i })
    (hc : codec (inCodec { s with rq := .op i }) =
      (op (inCodec { s with rq := .op i })).andThen fun t => publish (r t.ret) t) :
    exec i s = .next ({ s with rq := .op i }.attempt txs
      fun t => { t.finished (r t.ret) with chip_img := eff t.chip_img }) := by
  obtain ⟨hfault, -⟩ := ready_fault hr
  have hend := hc.trans (h.andThen_publish r (s := { s with rq := .op i }) hrst hfault)
  rw [exec_request hi]
  refine congrArg _ ?_
  calc request (.op i) s
    _ = runSeq Config.maxSteps (accept (.op i) s) := request_eq hr
    _ = runSeq (Config.maxSteps - 1) (validate (accept (.op i) s)) := runSeq_step (by decide) rfl hrst
    _ = runSeq (Config.maxSteps - 1) (inCodec { s with rq := .op i }) := by rw [hv]
    _ = runSeq (Config.maxSteps - 1 - 1) (codec (inCodec { s with rq := .op i })) := runSeq_step (by decide) rfl hrst
    _ = _ := by rw [hend, runSeq_idle (running_attempt ..)]

end Codec

/-- Settles O13: the one exchange of R117, then OK. -/
theorem regWriteEnds : Obligations.RegWriteEnds := fun addr value _ hr hrst =>
  exec_codec (performs_regWrite addr value) (fun _ => { cls := .ok }) rfl hr hrst rfl rfl

/-- Settles O14: the one exchange of R118, and that of R119, then OK. -/
theorem regMasksEnd : Obligations.RegMasksEnd := fun addr mask _ hr hrst =>
  ⟨exec_codec (performs_regOr addr mask) (fun _ => { cls := .ok }) rfl hr hrst rfl rfl,
    exec_codec (performs_regAnd addr mask) (fun _ => { cls := .ok }) rfl hr hrst rfl rfl⟩

/-- Settles O17: the exchanges of `ClearIrq` and then those of `SetMode(MODE_IDLE)`, then OK. -/
theorem chipIdleEnds : Obligations.ChipIdleEnds := fun _ hr hrst =>
  exec_codec (performs_clearIrq.bind performs_setMode_idle) (fun _ => { cls := .ok }) rfl hr hrst rfl rfl

/-! ### The requests that return bytes -/

/-- Of `good`, only what it does after all the exchanges returned has a part in an attempt. -/
theorem attempt_congr {txs : List Bytes} {good good' : State → State} {s : State}
    (h : s.allReturn txs = true → good (s.afterExchanges txs) = good' (s.afterExchanges txs)) :
    s.attempt txs good = s.attempt txs good' := by
  unfold State.attempt
  split
  · next hret => exact h hret
  · rfl

/-- After two exchanges `ret` holds what the second returned. -/
theorem ret_afterExchanges_two {a b : Bytes} {s : State} (h : s.allReturn [a, b] = true) :
    (s.afterExchanges [a, b]).ret = (answerAt 1 b.length s).getD [] := by
  rw [allReturn_two, Bool.and_eq_true] at h
  obtain ⟨x, hx⟩ := Option.isSome_iff_exists.1 h.1
  obtain ⟨y, hy⟩ := Option.isSome_iff_exists.1 h.2
  simp [State.afterExchanges, State.sent, sentFrom, hx, hy]

/-- Settles O15: the response is made of the four bytes that the fill exchange returns. -/
theorem regReadEnds : Obligations.RegReadEnds := by
  intro addr s hr hrst
  have hend := exec_codec (i := .regRead addr) (performs_regRead addr)
    (fun ret => { cls := .ok, val := some (u32le ret), data := le32 (u32le ret) }) rfl hr hrst rfl rfl
  rw [hend, attempt_congr fun h => ?_]
  simp only [ret_afterExchanges_readTx addr h]
  rfl

/-- Settles O16: the response is the bytes that the fill exchange returns. -/
theorem eepromReadEnds : Obligations.EepromReadEnds := by
  intro addr len s hr hrst hlen
  have hpos : 1 ≤ len.toNat := Nat.one_le_iff_ne_zero.2 fun h => hlen (BitVec.eq_of_toNat_eq h)
  have hvalid : validate (accept (.op (.eepromRead addr len)) s) =
      inCodec { s with rq := .op (.eepromRead addr len) } := if_pos (decide_eq_true hpos)
  have hend := exec_codec (performs_eepromRead addr hlen) (fun ret => { cls := .ok, data := ret }) rfl hr hrst
    hvalid rfl
  rw [hend, attempt_congr fun h => ?_]
  simp only [ret_afterExchanges_two h, List.length_replicate]
  rfl

end Sys2Proof.Proofs
end

section
/-!
PROOFS. CHIP_IDLE is idempotent (40_chip_port.md R127; 20_memory.md R74): its effect on what is known of the chip's
registers is, register by register, its own fixed point.
-/

namespace Sys2Proof.Proofs

open Sys2Proof Sys2Proof.Machine

/-! ## The chip in IDLE -/

/-- What is known of the chip's registers after `ClearIrq(); SetMode(MODE_IDLE)`. -/
def clearedIdleImg (img : List (Nat × ChipReg)) : List (Nat × ChipReg) := idleImg (chipRegWrite 0x03 0x000FFFFF img)

theorem chipReg_idleImg_command (img : List (Nat × ChipReg)) :
    chipReg 0x00 (idleImg img) = ⟨(chipReg 0x00 img).known ||| 0x00000007, (chipReg 0x00 img).value &&& 0xFFFFFFF8⟩ :=
  chipReg_chipRegAnd_self _ _ _ (by decide)

theorem commandedIdle_of_idleImg {s : State} {img : List (Nat × ChipReg)} (h : s.chip_img = idleImg img) :
    s.commandedIdle = true := by
  have hknown (k : Word) : (k ||| 0x00000007) &&& 0x00000007 = 0x00000007 := by
    simpa using or_and_or_self k 0 0x00000007
  have hvalue (x : Word) : x &&& 0xFFFFFFF8 &&& 0x00000007 = 0 := by
    simp [BitVec.and_assoc]
  rw [State.commandedIdle, h, chipReg_idleImg_command, hknown, hvalue]
  rfl

theorem chipReg_clearedIdleImg_command (img : List (Nat × ChipReg)) : chipReg 0x00 (clearedIdleImg img) =
    ⟨(chipReg 0x00 img).known ||| 0x00000007, (chipReg 0x00 img).value &&& 0xFFFFFFF8⟩ := by
  rw [clearedIdleImg, chipReg_idleImg_command, chipReg_chipRegWrite_other _ _ (by decide)]

theorem chipReg_clearedIdleImg_irqClear (img : List (Nat × ChipReg)) :
    chipReg 0x03 (clearedIdleImg img) = ⟨BitVec.allOnes 32, 0x000FFFFF⟩ :=
  (chipReg_chipRegAnd_other _ _ (by decide)).trans (chipReg_chipRegWrite_self ..)

theorem chipReg_clearedIdleImg_other {a : Byte} (h0 : a ≠ 0x00) (h3 : a ≠ 0x03) (img : List (Nat × ChipReg)) :
    chipReg a (clearedIdleImg img) = chipReg a img :=
  (chipReg_chipRegAnd_other _ _ h0).trans (chipReg_chipRegWrite_other _ _ h3)

theorem chipReg_clearedIdleImg_twice (a : Byte) (img : List (Nat × ChipReg)) :
    chipReg a (clearedIdleImg (clearedIdleImg img)) = chipReg a (clearedIdleImg img) := by
  by_cases h0 : a = 0x00
  · subst h0
    simp only [chipReg_clearedIdleImg_command, BitVec.or_assoc, BitVec.or_self, BitVec.and_assoc, BitVec.and_self]
  · by_cases h3 : a = 0x03
    · subst h3
      simp only [chipReg_clearedIdleImg_irqClear]
    · exact chipReg_clearedIdleImg_other h0 h3 _

/-! ## A CHIP_IDLE that ends OK -/

theorem attempt_of_ok {txs : List Bytes} {good : State → State} {s : State} (h : (s.attempt txs good).r_cls = .ok) :
    s.attempt txs good = good (s.afterExchanges txs) := by
  unfold State.attempt at h ⊢
  split
  · rfl
  · next hret =>
    rw [if_neg hret] at h
    cases h

/-- What the statement asks of a CHIP_IDLE that ends OK, and that the next request can follow. -/
structure ChipIdled (s t : State) : Prop where
  img : t.chip_img = clearedIdleImg s.chip_img
  mem : t.tag_mem = s.tag_mem
  sent : (t.log.drop s.log.length).map Xchg.tx = [clearIrqTx, modeAndTx]
  ready : t.req_ready = true
  rst : t.rst = []

theorem chipIdled_of_ok {s t : State} (hr : s.req_ready = true) (hrst : s.rst = []) (h : exec .chipIdle s = .next t)
    (hok : t.r_cls = .ok) : ChipIdled s t := by
  obtain ⟨hfault, -⟩ := ready_fault hr
  rw [chipIdleEnds s hr hrst] at h
  injection h with h
  subst h
  rw [attempt_of_ok hok]
  refine ⟨rfl, rfl, ?_, ?_, hrst⟩
  · change ((s.log ++ _).drop s.log.length).map Xchg.tx = _
    rw [List.drop_left]
    rfl
  · simp [State.req_ready, State.busy, State.finished, State.responded, hfault]

/-- Settles O18: the second begins where the first ended. -/
theorem chipIdleTwice : Obligations.ChipIdleTwice := by
  intro s t u hr hrst ht htok hu huok
  have hst := chipIdled_of_ok hr hrst ht htok
  have htu := chipIdled_of_ok hst.ready hst.rst hu huok
  refine ⟨commandedIdle_of_idleImg hst.img, commandedIdle_of_idleImg htu.img, fun a => ?_, htu.mem.trans hst.mem,
    htu.sent, hst.sent⟩
  rw [htu.img, hst.img, chipReg_clearedIdleImg_twice]

end Sys2Proof.Proofs
end

section
/-!
PROOFS. What an RF request leaves of the chip's registers (40_chip_port.md R125, R126; 10_state.md R38): a transceive
commands IRQ_CLEAR and the COMMAND field of SYSTEM_CONFIG, and reads the rest. Every step of the sequencer keeps what is
known of the other bits, up to a transport failure, which drops all that is known.
-/

namespace Sys2Proof.Proofs

open Sys2Proof Sys2Proof.Machine

/-! ## The bits an RF request leaves -/

/-- Of every register but SYSTEM_CONFIG and IRQ_CLEAR, and of SYSTEM_CONFIG above COMMAND, the same is known. -/
structure SameOtherBits (img img' : List (Nat × ChipReg)) : Prop where
  others : ∀ a : Byte, a ≠ 0x00 → a ≠ 0x03 → chipReg a img' = chipReg a img
  known : (chipReg 0x00 img').known &&& 0xFFFFFFF8 = (chipReg 0x00 img).known &&& 0xFFFFFFF8
  value : (chipReg 0x00 img').value &&& 0xFFFFFFF8 = (chipReg 0x00 img).value &&& 0xFFFFFFF8

theorem SameOtherBits.refl (img : List (Nat × ChipReg)) : SameOtherBits img img := ⟨fun _ _ _ => rfl, rfl, rfl⟩

theorem SameOtherBits.trans {i j k : List (Nat × ChipReg)} (h : SameOtherBits i j) (h' : SameOtherBits j k) :
    SameOtherBits i k :=
  ⟨fun a h0 h3 => (h'.others a h0 h3).trans (h.others a h0 h3), h'.known.trans h.known, h'.value.trans h.value⟩

theorem sameOtherBits_irqClear (v : Word) (img : List (Nat × ChipReg)) :
    SameOtherBits img (chipRegWrite 0x03 v img) := by
  have hconfig : chipReg 0x00 (chipRegWrite 0x03 v img) = chipReg 0x00 img := chipReg_chipRegWrite_other _ _ (by decide)
  exact ⟨fun a _ h3 => chipReg_chipRegWrite_other _ _ h3, by rw [hconfig], by rw [hconfig]⟩

/-- Bits of COMMAND that become known are cut off above it. -/
theorem or_and_aboveCommand {m : Word} (h : m &&& 0xFFFFFFF8 = 0) (x : Word) :
    (x ||| m) &&& 0xFFFFFFF8 = x &&& 0xFFFFFFF8 := by
  rw [BitVec.and_or_distrib_right, h]
  exact BitVec.or_zero

theorem sameOtherBits_idleImg (img : List (Nat × ChipReg)) : SameOtherBits img (idleImg img) := by
  refine ⟨fun a h0 _ => chipReg_chipRegAnd_other _ _ h0, ?_, ?_⟩
  · rw [chipReg_idleImg_command]
    exact or_and_aboveCommand (by decide) _
  · rw [chipReg_idleImg_command, BitVec.and_assoc, BitVec.and_self]

theorem sameOtherBits_orCommand {m : Word} (hm : m ≠ 0) (h : m &&& 0xFFFFFFF8 = 0) (img : List (Nat × ChipReg)) :
    SameOtherBits img (chipRegOr 0x00 m img) := by
  refine ⟨fun a h0 _ => chipReg_chipRegOr_other _ _ h0, ?_, ?_⟩ <;> rw [chipReg_chipRegOr_self _ _ _ hm] <;>
    exact or_and_aboveCommand h _

/-! ## The chip port -/

/-- A transport failure has ended the request. -/
def Failed (s : State) : Prop := s.st = .fault ∧ s.fault = .transport

/-- All that an operation of a transceive can do from `s`, where no reset is to come: it leaves the bits that no
transceive commands, or a transport failure ends the request. -/
def LeavesBits (s : State) : Port → Prop
  | .done t => t.rst = [] ∧ SameOtherBits s.chip_img t.chip_img
  | .ended t => t.rst = [] ∧ Failed t

theorem LeavesBits.bind {s : State} {p : Port} {f : State → Port} (hp : LeavesBits s p)
    (hf : ∀ t : State, t.rst = [] → LeavesBits t (f t)) : LeavesBits s (p.bind f) := by
  cases p with
  | ended t => exact hp
  | done t =>
    obtain ⟨hrst, hbits⟩ := hp
    have ht := hf t hrst
    rw [Port.bind]
    cases hft : f t with
    | ended u => rw [hft] at ht; exact ht
    | done u =>
      rw [hft] at ht
      obtain ⟨hrst', hbits'⟩ := ht
      exact ⟨hrst', hbits.trans hbits'⟩

theorem Performs.leavesBits {op : State → Port} {txs : List Bytes} {eff : ChipEffect}
    (h : Performs op txs eff) (heff : ∀ img : List (Nat × ChipReg), SameOtherBits img (eff img)) {s : State}
    (hs : s.rst = []) : LeavesBits s (op s) := by
  rw [h s hs]
  split
  · exact ⟨hs, heff s.chip_img⟩
  · exact ⟨hs, rfl, rfl⟩

section Operations

variable {s : State} (hs : s.rst = [])

include hs

theorem leavesBits_exchange (tx : Bytes) : LeavesBits s (exchange tx s) :=
  (performs_exchange tx).leavesBits .refl hs

theorem leavesBits_query (i : Instr) (n : Nat) : LeavesBits s (query i n s) := by
  refine (leavesBits_exchange hs _).bind fun t ht => ?_
  split
  · exact ⟨ht, .refl _⟩
  · exact leavesBits_exchange ht _

theorem leavesBits_clearIrq : LeavesBits s (clearIrq s) :=
  performs_clearIrq.leavesBits (sameOtherBits_irqClear _) hs

theorem leavesBits_setMode_idle : LeavesBits s (setMode Config.modeIdle s) :=
  performs_setMode_idle.leavesBits sameOtherBits_idleImg hs

theorem leavesBits_setMode_transceive : LeavesBits s (setMode Config.modeTransceive s) :=
  ((performs_regAnd Config.regSystemConfig (~~~Config.commandMask)).leavesBits sameOtherBits_idleImg hs).bind
    fun _ ht => (performs_regOr Config.regSystemConfig Config.modeTransceive).leavesBits
      (sameOtherBits_orCommand (by decide) (by decide)) ht

end Operations

/-! ## The steps of a transceive -/

/-- From `s` to `t` no reset comes up, the request does not go to VALIDATE or CODEC, and the bits that no transceive
commands stay, unless a transport failure has ended the request. -/
structure KeepsBits (s t : State) : Prop where
  rst : t.rst = []
  st : t.st ≠ .validate ∧ t.st ≠ .codec
  bits : Failed t ∨ SameOtherBits s.chip_img t.chip_img

theorem LeavesBits.keepsBits {s : State} {p : Port} {f : State → State} (hp : LeavesBits s p)
    (hf : ∀ t : State, t.rst = [] → KeepsBits t (f t)) : KeepsBits s (p.andThen f) := by
  cases p with
  | done t =>
    obtain ⟨hrst, hbits⟩ := hp
    have ht := hf t hrst
    exact ⟨ht.rst, ht.st, ht.bits.imp_right hbits.trans⟩
  | ended t =>
    obtain ⟨hrst, hst, hfault⟩ := hp
    exact ⟨hrst, by simp [Port.andThen, hst], .inl ⟨hst, hfault⟩⟩

/-- A step that moves other registers only. -/
theorem KeepsBits.of_eq {s t : State} (hs : s.rst = []) (hrst : t.rst = s.rst) (himg : t.chip_img = s.chip_img)
    (hst : t.st ≠ .validate ∧ t.st ≠ .codec) : KeepsBits s t :=
  ⟨hrst.trans hs, hst, .inr (himg ▸ .refl _)⟩

/-- Where the start differs in other registers, it may be exchanged. -/
theorem KeepsBits.of_left {s s' t : State} (h : KeepsBits s' t) (himg : s'.chip_img = s.chip_img) : KeepsBits s t :=
  ⟨h.rst, h.st, himg ▸ h.bits⟩

section Steps

variable {s : State} (hs : s.rst = [])

include hs

theorem keepsBits_publish (r : Rsp) : KeepsBits s (publish r s) := by
  refine .of_eq hs rfl rfl ?_
  rw [publish_st]
  split <;> decide

theorem keepsBits_enterTransceive (f : Bytes) : KeepsBits s (enterTransceive f s) :=
  .of_eq hs rfl rfl ⟨nofun, nofun⟩

theorem keepsBits_chkTransmit : KeepsBits s (chkTransmit s) := by
  unfold chkTransmit
  split
  · exact .of_eq hs rfl rfl ⟨nofun, nofun⟩
  · have hcleanup := leavesBits_setMode_idle (s := { s with fault := .protocolState }) hs
    exact (hcleanup.keepsBits (f := protocolStateError) fun t ht => keepsBits_publish ht _).of_left rfl

theorem keepsBits_aSampled : KeepsBits s (aSampled s) := by
  unfold aSampled
  split_ifs <;> exact .of_eq hs rfl rfl ⟨nofun, nofun⟩

theorem keepsBits_bSampled : KeepsBits s (bSampled s) := by
  unfold bSampled
  split_ifs <;> exact .of_eq hs rfl rfl ⟨nofun, nofun⟩

theorem keepsBits_xRxstat : KeepsBits s (xRxstat s) := by
  refine (leavesBits_query hs _ _).keepsBits fun t ht => ?_
  simp only
  split <;> exact .of_eq ht rfl rfl ⟨nofun, nofun⟩

theorem keepsBits_xRestore : KeepsBits s (xRestore s) := by
  refine (leavesBits_setMode_idle hs).keepsBits fun t ht => .of_eq ht rfl rfl ?_
  rcases returnState_cases t.rq with h | h | h <;> simp [h]

theorem keepsBits_decodeStep : KeepsBits s (decodeStep s) := by
  unfold decodeStep
  split <;> exact keepsBits_publish hs _

theorem keepsBits_mRead : KeepsBits s (mRead s) := by
  unfold mRead
  split <;> exact keepsBits_publish hs _

theorem keepsBits_mWchunk : KeepsBits s (mWchunk s) := by
  unfold mWchunk
  split
  · exact keepsBits_publish hs _
  · unfold nextChunk
    split
    · exact .of_eq hs rfl rfl ⟨nofun, nofun⟩
    · exact (keepsBits_publish (s := chunkWritten s) hs _).of_left rfl

/-- Every state of R22 but VALIDATE and CODEC. -/
theorem keepsBits_seqStep (hst : s.st ≠ .validate ∧ s.st ≠ .codec) : KeepsBits s (seqStep s) := by
  obtain ⟨hv, hc⟩ := hst
  unfold seqStep
  split
  case h_1 | h_18 | h_19 => exact .of_eq hs rfl rfl ⟨hv, hc⟩
  case h_2 h => exact absurd h hv
  case h_3 h => exact absurd h hc
  case h_4 => exact (leavesBits_clearIrq hs).keepsBits fun t ht => .of_eq ht rfl rfl ⟨nofun, nofun⟩
  case h_5 => exact (leavesBits_setMode_transceive hs).keepsBits fun t ht => .of_eq ht rfl rfl ⟨nofun, nofun⟩
  case h_6 =>
    exact (leavesBits_query hs _ _).keepsBits fun t ht =>
      (keepsBits_chkTransmit (s := { t with ts := bitField 3 Config.tsLsb (u32le t.ret) }) ht).of_left rfl
  case h_7 => exact (leavesBits_exchange hs _).keepsBits fun t ht => .of_eq ht rfl rfl ⟨nofun, nofun⟩
  case h_8 =>
    exact (leavesBits_query hs _ _).keepsBits fun t ht =>
      (keepsBits_aSampled (s := { t with irq := u32le t.ret, smp := t.smp + 1 }) ht).of_left rfl
  case h_9 => exact .of_eq hs rfl rfl ⟨nofun, nofun⟩
  case h_10 =>
    exact (leavesBits_query hs _ _).keepsBits fun t ht =>
      (keepsBits_bSampled (s := { t with irq := u32le t.ret, smp := t.smp + 1 }) ht).of_left rfl
  case h_11 => exact .of_eq hs rfl rfl ⟨nofun, nofun⟩
  case h_12 => exact keepsBits_xRxstat hs
  case h_13 => exact (leavesBits_query hs _ _).keepsBits fun t ht => .of_eq ht rfl rfl ⟨nofun, nofun⟩
  case h_14 => exact keepsBits_xRestore hs
  case h_15 => exact keepsBits_decodeStep hs
  case h_16 => exact keepsBits_mRead hs
  case h_17 => exact keepsBits_mWchunk hs

/-! ## VALIDATE -/

theorem keepsBits_startRf (ok : Bool) (f : Bytes) : KeepsBits s (startRf ok f s) := by
  unfold startRf
  split
  · exact keepsBits_enterTransceive hs f
  · exact keepsBits_publish hs _

theorem keepsBits_startMemRead (tag : TagRec) (offset length : Half) :
    KeepsBits s (startMemRead tag offset length s) := by
  unfold startMemRead
  split_ifs
  any_goals exact keepsBits_publish hs _
  exact .of_eq hs rfl rfl ⟨nofun, nofun⟩

theorem keepsBits_startMemWrite (tag : TagRec) (offset : Half) (data : Bytes) :
    KeepsBits s (startMemWrite tag offset data s) := by
  unfold startMemWrite
  split_ifs
  any_goals exact keepsBits_publish hs _
  exact .of_eq hs rfl rfl ⟨nofun, nofun⟩

/-- A request that may wait is not CODEC's. -/
theorem keepsBits_validate {i : Instr} (hq : s.rq = .op i) (hw : waitBound i ≠ 0) : KeepsBits s (validate s) := by
  unfold validate
  simp only [hq]
  split
  · exact keepsBits_startRf hs _ _
  · cases i
    case transceive | isoRaw | raw => exact keepsBits_startRf hs _ _
    case memRead => exact keepsBits_startMemRead hs _ _ _
    case memWrite =>
      simp only
      split
      · exact keepsBits_startMemWrite hs _ _ _
      · exact keepsBits_publish hs _
    case chipIdle | regWrite | regOr | regAnd | regRead => exact absurd rfl hw
    case eepromRead => exact absurd (ite_self _) hw
    all_goals exact keepsBits_publish hs _

end Steps

/-! ## A whole request -/

theorem keepsBits_unitStep {s t : State} (h : KeepsBits s t) (hr : t.running = true) : KeepsBits s (unitStep t) := by
  obtain ⟨-, -, hfault⟩ := running_iff.1 hr
  have hnext := keepsBits_seqStep h.rst h.st
  rw [unitStep_nil h.rst]
  rcases h.bits with ⟨hst, -⟩ | hbits
  · exact absurd hst hfault
  · exact ⟨hnext.rst, hnext.st, hnext.bits.imp_right hbits.trans⟩

theorem keepsBits_request {i : Instr} {s : State} (hw : waitBound i ≠ 0) (hr : s.req_ready = true) (hs : s.rst = []) :
    KeepsBits s (request (.op i) s) := by
  have hstart : KeepsBits s (validate (accept (.op i) s)) :=
    (keepsBits_validate (s := accept (.op i) s) hs rfl hw).of_left rfl
  rw [request_eq hr, runSeq_step (s := accept (.op i) s) (by decide) rfl hs]
  exact runSeq_keeps (P := KeepsBits s) (fun _ => keepsBits_unitStep) _ _ hstart

/-- Settles O38: a request keeps the bits unless a transport failure ends it. -/
theorem setModeKeepsOtherBits : Obligations.SetModeKeepsOtherBits := by
  intro i s t hi hw hr hs h hfault
  rw [exec_request hi] at h
  cases h
  rcases (keepsBits_request hw hr hs).bits with ⟨-, hfailed⟩ | hbits
  · exact absurd hfailed hfault
  · exact ⟨hbits.others, hbits.known, hbits.value⟩

end Sys2Proof.Proofs
end

section
/-!
PROOFS. What an operation of the chip port adds to the exchange log (60_exceptions.md R298), wherever an exchange of it
fails or a reset is taken before one; and the logs in which every send follows a preparation that showed WAIT_TRANSMIT
(41_transceive.md R145).
-/

namespace Sys2Proof.Proofs

open Sys2Proof Sys2Proof.Machine

/-! ## What an operation of the chip port adds to the log -/

/-- No exchange of these failed. -/
def Returned (l : List Xchg) : Prop := ∀ x ∈ l, x.rx ≠ none

theorem returned_nil : Returned [] := fun _ hx => absurd hx List.not_mem_nil

theorem Returned.append {l l' : List Xchg} (h : Returned l) (h' : Returned l') : Returned (l ++ l') :=
  fun x hx => (List.mem_append.1 hx).elim (h x) (h' x)

/-- What exchanges returned, byte string by byte string. -/
theorem Returned.exists_answers {l : List Xchg} (h : Returned l) :
    ∃ rxs : List Bytes, rxs.length = (l.map Xchg.tx).length ∧
      l = List.zipWith (fun tx rx => ⟨tx, some rx⟩) (l.map Xchg.tx) rxs := by
  induction l with
  | nil => exact ⟨[], rfl, rfl⟩
  | cons x l ih =>
    obtain ⟨rxs, hlen, hl⟩ := ih fun y hy => h y (List.mem_cons_of_mem _ hy)
    obtain ⟨rx, hrx⟩ := Option.ne_none_iff_exists'.1 (h x List.mem_cons_self)
    refine ⟨rx :: rxs, by simpa using hlen, ?_⟩
    rw [List.map_cons, List.zipWith_cons_cons, ← hl, ← hrx]

/-- All that an operation that is to make the exchanges `txs` can do: make them all, end the request in FAULT at the one
that fails, or end it where a reset is taken. -/
inductive Tries (txs : List Bytes) (s : State) : Port → Prop where
  | done {t : State} {l : List Xchg} : t.log = s.log ++ l → l.map Xchg.tx = txs → Returned l →
      (s.rst = [] → t.rst = []) → Tries txs s (.done t)
  | failed {t : State} {l : List Xchg} {tx : Bytes} : t.log = s.log ++ (l ++ [⟨tx, none⟩]) →
      l.map Xchg.tx ++ [tx] <+: txs → Returned l → Failed t → t.chip_img = [] → Tries txs s (.ended t)
  | reset {t : State} {l : List Xchg} : t.log = s.log ++ l → l.map Xchg.tx <+: txs → Returned l →
      s.rst ≠ [] → t.st = .ready → Tries txs s (.ended t)

/-- An operation that makes no exchange. -/
theorem Tries.silent {s t : State} (hlog : t.log = s.log) (hrst : t.rst = s.rst) : Tries [] s (.done t) :=
  .done (l := []) (by simp [hlog]) rfl returned_nil hrst.trans

theorem tries_exchange (tx : Bytes) (s : State) : Tries [tx] s (exchange tx s) := by
  rcases exchange_cases tx s with ⟨r, rx, -, hr, -, h⟩ | ⟨r, -, -, -, h⟩ | ⟨rest, hrst, h⟩ <;> rw [h]
  · refine .done (l := [⟨tx, some rx⟩]) rfl rfl (by simp [Returned]) fun hs => ?_
    exact List.length_eq_zero_iff.1 (hr.trans (List.length_eq_zero_iff.2 hs))
  · exact .failed (l := []) rfl List.prefix_rfl returned_nil ⟨rfl, rfl⟩ rfl
  · exact .reset (l := []) (by simp) List.nil_prefix returned_nil (by simp [hrst]) rfl

theorem Tries.bind {txs txs' : List Bytes} {s : State} {p : Port} {f : State → Port} (hp : Tries txs s p)
    (hf : ∀ t : State, Tries txs' t (f t)) : Tries (txs ++ txs') s (p.bind f) := by
  cases hp with
  | failed hlog htx hret hend himg => exact .failed hlog (htx.trans (List.prefix_append ..)) hret hend himg
  | reset hlog htx hret hrst hend => exact .reset hlog (htx.trans (List.prefix_append ..)) hret hrst hend
  | @done t l hlog htx hret hrst =>
    rw [Port.bind]
    cases hft : f t with
    | done u =>
      obtain ⟨hlog', htx', hret', hrst'⟩ := hft ▸ hf t
      exact .done (by rw [hlog', hlog, List.append_assoc]) (by rw [List.map_append, htx, htx']) (hret.append hret')
        (hrst' ∘ hrst)
    | ended u =>
      cases hft ▸ hf t with
      | @failed _ l' tx hlog' htx' hret' hend himg =>
        have hlog'' : u.log = s.log ++ (l ++ l' ++ [⟨tx, none⟩]) := by rw [hlog', hlog]; simp only [List.append_assoc]
        refine .failed hlog'' ?_ (hret.append hret') hend himg
        rw [List.map_append, htx, List.append_assoc]
        exact (List.prefix_append_right_inj txs).2 htx'
      | @reset _ l' hlog' htx' hret' hrst' hend =>
        refine .reset (l := l ++ l') (by rw [hlog', hlog, List.append_assoc]) ?_ (hret.append hret') (hrst' ∘ hrst) hend
        rw [List.map_append, htx]
        exact (List.prefix_append_right_inj txs).2 htx'

theorem tries_command (i : Instr) (eff : ChipEffect) (s : State) : Tries [(encode i).2] s (command i eff s) :=
  (tries_exchange (encode i).2 s).bind (txs' := []) fun _ => .silent rfl rfl

/-- The exchanges of a command with a response of `n` bytes (40_chip_port.md R120, R121, R123). -/
def queryTx (i : Instr) (n : Nat) : List Bytes := (encode i).2 :: if n = 0 then [] else [rep Config.fillByte n]

theorem tries_query (i : Instr) (n : Nat) (s : State) : Tries (queryTx i n) s (query i n s) := by
  refine (tries_exchange (encode i).2 s).bind (txs' := if n = 0 then [] else [rep Config.fillByte n]) fun t => ?_
  split
  · exact .silent rfl rfl
  · exact tries_exchange _ t

theorem tries_regRead (a : Byte) (s : State) : Tries (readTx a) s (regRead a s) := tries_query (.readRegister a) 4 s

theorem tries_regAnd (a : Byte) (m : Word) (s : State) : Tries [[0x02, a] ++ le32 m] s (regAnd a m s) :=
  tries_command (.writeRegisterAndMask a m) _ s

theorem tries_regOr (a : Byte) (m : Word) (s : State) : Tries [[0x01, a] ++ le32 m] s (regOr a m s) :=
  tries_command (.writeRegisterOrMask a m) _ s

theorem tries_clearIrq (s : State) : Tries [clearIrqTx] s (clearIrq s) :=
  tries_command (.writeRegister Config.regIrqClear Config.irqClearAll) _ s

theorem tries_setMode_idle (s : State) : Tries [modeAndTx] s (setMode Config.modeIdle s) :=
  (tries_regAnd Config.regSystemConfig (~~~Config.commandMask) s).bind (txs' := []) fun _ => .silent rfl rfl

theorem tries_setMode_transceive (s : State) : Tries [modeAndTx, modeOrTx] s (setMode Config.modeTransceive s) :=
  (tries_regAnd Config.regSystemConfig (~~~Config.commandMask) s).bind (txs' := [modeOrTx])
    fun t => tries_regOr Config.regSystemConfig Config.modeTransceive t

/-- After an exchange that returned, `ret` holds what it returned. -/
theorem exchange_done_ret {tx : Bytes} {s t : State} (h : exchange tx s = .done t) :
    t.log.getLast? = some ⟨tx, some t.ret⟩ := by
  rcases exchange_cases tx s with ⟨r, rx, -, -, -, he⟩ | ⟨r, -, -, -, he⟩ | ⟨rest, -, he⟩ <;> rw [he] at h <;> cases h
  simp

theorem regRead_done_ret {a : Byte} {s t : State} (h : regRead a s = .done t) :
    t.log.getLast? = some ⟨fillTx, some t.ret⟩ := by
  rcases query_cases (.readRegister a) 4 s with ⟨u, -, hq⟩ | ⟨u, -, hn, -⟩ | ⟨u, v, -, -, hx, hq⟩ | ⟨u, v, -, -, -, hq⟩
  · cases hq.symm.trans h
  · cases hn
  · cases hq.symm.trans h
    exact exchange_done_ret hx
  · cases hq.symm.trans h

/-- After `SetMode(MODE_IDLE)` (R126) the chip was last commanded to IDLE. -/
theorem commandedIdle_of_setMode_idle {s t : State} (h : setMode Config.modeIdle s = .done t) :
    t.commandedIdle = true := by
  unfold setMode at h
  rcases command_cases (.writeRegisterAndMask Config.regSystemConfig (~~~Config.commandMask))
      (chipRegAnd Config.regSystemConfig (~~~Config.commandMask)) s with ⟨u, -, hu⟩ | ⟨u, -, hu⟩
  · rw [regAnd, hu] at h
    cases h
    exact commandedIdle_of_idleImg (img := u.chip_img) rfl
  · rw [regAnd, hu] at h
    cases h

/-! ## The sends of a log -/

/-- Preparation exchanges that all returned, the RF_STATUS read with ts = 1, end the log (R141 to R145). -/
def EndsChecked (l : List Xchg) : Prop :=
  ∃ (earlier : List Xchg) (r1 r2 r3 r4 r5 : Bytes),
    l = earlier ++ [⟨clearIrqTx, some r1⟩, ⟨modeAndTx, some r2⟩, ⟨modeOrTx, some r3⟩, ⟨[0x04, 0x1D], some r4⟩,
      ⟨fillTx, some r5⟩] ∧ (u32le r5).extractLsb' 24 3 = (1 : BitVec 3)

/-- Every send of the log comes directly after such a preparation. -/
def SendsChecked (l : List Xchg) : Prop :=
  ∀ (before after : List Xchg) (x : Xchg), l = before ++ x :: after → isSend x = true → EndsChecked before

theorem EndsChecked.append {l : List Xchg} (h : EndsChecked l) (l' : List Xchg) : EndsChecked (l' ++ l) := by
  obtain ⟨earlier, r1, r2, r3, r4, r5, rfl, hts⟩ := h
  exact ⟨l' ++ earlier, r1, r2, r3, r4, r5, (List.append_assoc ..).symm, hts⟩

theorem sendsChecked_of_no_send {l : List Xchg} (h : ∀ x ∈ l, isSend x = false) : SendsChecked l := by
  rintro before after x rfl hx
  rw [h x (by simp)] at hx
  cases hx

theorem sendsChecked_nil : SendsChecked [] := sendsChecked_of_no_send fun _ hx => absurd hx List.not_mem_nil

theorem SendsChecked.append {l l' : List Xchg} (h : SendsChecked l) (h' : SendsChecked l') :
    SendsChecked (l ++ l') := by
  intro before after x he hx
  rcases List.append_eq_append_iff.1 he with ⟨m, rfl, hm⟩ | ⟨m, hm, hm'⟩
  · exact (h' m after x hm hx).append l
  · cases m with
    | nil =>
      have hlast := (h' [] after x hm'.symm hx).append l
      simp only [List.append_nil] at hm hlast
      exact hm ▸ hlast
    | cons y m =>
      cases hm'
      exact h before m x hm hx

theorem SendsChecked.flatten {ls : List (List Xchg)} (h : ∀ l ∈ ls, SendsChecked l) : SendsChecked ls.flatten := by
  induction ls with
  | nil => exact sendsChecked_nil
  | cons l ls ih =>
    rw [List.flatten_cons]
    exact (h l List.mem_cons_self).append (ih fun l' hl' => h l' (List.mem_cons_of_mem _ hl'))

/-- One more exchange, after a preparation if it sends. -/
theorem SendsChecked.concat {l : List Xchg} (h : SendsChecked l) {x : Xchg} (hx : isSend x = true → EndsChecked l) :
    SendsChecked (l ++ [x]) := by
  intro before after y he hy
  rcases List.eq_nil_or_concat after with rfl | ⟨after, z, rfl⟩
  · obtain ⟨rfl, hxy⟩ := List.append_inj' he rfl
    cases hxy
    exact hx hy
  · rw [List.concat_eq_append, ← List.cons_append, ← List.append_assoc] at he
    obtain ⟨hl, -⟩ := List.append_inj' he rfl
    exact h before after y hl hy

end Sys2Proof.Proofs
end

section
/-!
PROOFS. The exchanges of a transceive (41_transceive.md R140 to R159): what it has added to the log in each state of
R22, and what each state's step adds, unless an exchange fails or a reset is taken.
-/

namespace Sys2Proof.Proofs

open Sys2Proof Sys2Proof.Machine

/-! ## The exchanges of a transceive -/

/-- A register read, READ_DATA or the fill bytes of one of them (30_encoding.md R89, R90). -/
def isReadTx (tx : Bytes) : Bool := decide (tx.head? ∈ [some 0x04, some 0x0A, some 0xFF])

/-- The byte strings of a transceive that has sent its frame, up to its return to IDLE. -/
inductive SentTx : List Bytes → Prop where
  | sent (f : Bytes) : SentTx (startTx f)
  | read {txs : List Bytes} {tx : Bytes} : SentTx txs → isReadTx tx = true → SentTx (txs ++ [tx])

/-- The byte strings of a transceive with its return to IDLE; without a send where the WAIT_TRANSMIT check failed
(R144). -/
inductive WholeTx : List Bytes → Prop where
  | refused : WholeTx (prepareTx ++ [modeAndTx])
  | sent {txs : List Bytes} : SentTx txs → WholeTx (txs ++ [modeAndTx])

theorem SentTx.append {txs reads : List Bytes} (h : SentTx txs) (hr : ∀ tx ∈ reads, isReadTx tx = true) :
    SentTx (txs ++ reads) := by
  induction reads generalizing txs with
  | nil => rwa [List.append_nil]
  | cons tx reads ih =>
    rw [← List.singleton_append, ← List.append_assoc]
    exact ih (h.read (hr tx List.mem_cons_self)) fun tx' h' => hr tx' (List.mem_cons_of_mem _ h')

/-- What the cleanup contract says of a transceive's byte strings up to the return to IDLE: the preparation's three
commands, each once. -/
structure Prepares (txs : List Bytes) : Prop where
  head : ∃ rest, txs = [clearIrqTx, modeAndTx, modeOrTx] ++ rest
  clear : txs.count clearIrqTx = 1
  enter : txs.count modeOrTx = 1
  leave : txs.count modeAndTx = 1

theorem Prepares.concat {txs : List Bytes} {tx : Bytes} (h : Prepares txs)
    (htx : tx ≠ clearIrqTx ∧ tx ≠ modeOrTx ∧ tx ≠ modeAndTx) : Prepares (txs ++ [tx]) := by
  obtain ⟨⟨rest, hrest⟩, hclear, henter, hleave⟩ := h
  obtain ⟨h1, h2, h3⟩ := htx
  refine ⟨⟨rest ++ [tx], by rw [hrest, List.append_assoc]⟩, ?_, ?_, ?_⟩ <;>
    rw [List.count_append, List.count_singleton, beq_eq_false_iff_ne.2 ‹_›] <;> assumption

theorem prepares_prepareTx : Prepares prepareTx := ⟨⟨_, rfl⟩, rfl, rfl, rfl⟩

theorem SentTx.prepares {txs : List Bytes} (h : SentTx txs) : Prepares txs := by
  induction h with
  | sent f => exact prepares_prepareTx.concat ⟨nofun, nofun, nofun⟩
  | read _ htx ih => exact ih.concat (by refine ⟨?_, ?_, ?_⟩ <;> rintro rfl <;> cases htx)

theorem WholeTx.eq_concat {txs : List Bytes} (h : WholeTx txs) : ∃ l, txs = l ++ [modeAndTx] ∧ Prepares l := by
  cases h with
  | refused => exact ⟨_, rfl, prepares_prepareTx⟩
  | sent h => exact ⟨_, rfl, h.prepares⟩

/-! ## A transceive in progress -/

/-- The log is `base` and then `g`, exchanges that all returned, their sends checked. -/
structure Adds (base g log : List Xchg) : Prop where
  log : log = base ++ g
  returned : Returned g
  sends : SendsChecked g

/-- The exchanges of one transceive from ClearIrq to its return to IDLE, all returned. -/
structure Complete (g : List Xchg) : Prop where
  returned : Returned g
  sends : SendsChecked g
  shape : WholeTx (g.map Xchg.tx)

theorem Adds.complete {base g log : List Xchg} (h : Adds base g log) (hw : WholeTx (g.map Xchg.tx)) : Complete g :=
  ⟨h.returned, h.sends, hw⟩

/-- What the transceive in progress has exchanged when it is in the state `s`. -/
def Reached (s : State) (g : List Xchg) : Prop :=
  match s.st with
  | .xClr => g.map Xchg.tx = []
  | .xMode => g.map Xchg.tx = [clearIrqTx]
  | .xChk => g.map Xchg.tx = [clearIrqTx, modeAndTx, modeOrTx]
  | .xSend => g.map Xchg.tx = prepareTx ∧ EndsChecked g
  | .xASample | .xAWait | .xBSample | .xBWait | .xRxstat | .xRxdata | .xRestore => SentTx (g.map Xchg.tx)
  | .decode | .mRead | .mWchunk => WholeTx (g.map Xchg.tx) ∧ s.commandedIdle = true
  | _ => False

/-- The exchanges `g` of a transceive all returned, and its next, which sends `tx`, does not. -/
structure CutShort (g : List Xchg) (tx : Bytes) : Prop where
  returned : Returned g
  sends : SendsChecked (g ++ [⟨tx, none⟩])
  shape : ∃ w, WholeTx w ∧ g.map Xchg.tx ++ [tx] <+: w

/-- Where a step takes a transceive whose log began at `base`, from a state with the resets `rst` to come: it goes on,
the next one of a MEM_WRITE begins, the request ends with the chip in IDLE, an exchange has failed, or a reset was
taken. -/
inductive Onward (base : List Xchg) (rst : List Nat) (t : State) : Prop where
  | underway {g : List Xchg} : Adds base g t.log → Reached t g → (rst = [] → t.rst = []) → Onward base rst t
  | next {g : List Xchg} : t.log = base ++ g → Complete g → t.st = .xClr → (rst = [] → t.rst = []) →
      Onward base rst t
  | finished {g : List Xchg} : t.log = base ++ g → Complete g → t.commandedIdle = true → t.running = false →
      Onward base rst t
  | failed {g : List Xchg} {tx : Bytes} : t.log = base ++ (g ++ [⟨tx, none⟩]) → CutShort g tx → Failed t →
      t.chip_img = [] → Onward base rst t
  | reset {g : List Xchg} : rst ≠ [] → t.log = base ++ g → SendsChecked g → t.st = .ready → Onward base rst t

theorem Onward.of_rst {base : List Xchg} {rst rst' : List Nat} {t : State} (h : Onward base rst' t)
    (hrst : rst = [] → rst' = []) : Onward base rst t := by
  cases h with
  | underway hg hr hnil => exact .underway hg hr (hnil ∘ hrst)
  | next hlog hg hst hnil => exact .next hlog hg hst (hnil ∘ hrst)
  | finished hlog hg hidle hrun => exact .finished hlog hg hidle hrun
  | failed hlog hcut hend himg => exact .failed hlog hcut hend himg
  | reset hne hlog hsends hst => exact .reset (hne ∘ hrst) hlog hsends hst

/-- Exchanges that send nothing, or one exchange after a checked preparation. -/
def Allowed (g : List Xchg) (txs : List Bytes) : Prop :=
  (∀ tx ∈ txs, tx.head? ≠ some 0x09) ∨ EndsChecked g ∧ ∃ tx, txs = [tx]

theorem SendsChecked.allowed {g l : List Xchg} {txs : List Bytes} (h : SendsChecked g) (ha : Allowed g txs)
    (hl : l.map Xchg.tx <+: txs) : SendsChecked (g ++ l) := by
  rcases ha with hno | ⟨hchecked, tx, rfl⟩
  · refine h.append (sendsChecked_of_no_send fun x hx => ?_)
    exact beq_eq_false_iff_ne.2 (hno x.tx (hl.subset (List.mem_map_of_mem hx)))
  · match l, hl with
    | [], _ => rwa [List.append_nil]
    | [x], _ => exact h.concat fun _ => hchecked
    | _ :: _ :: _, hl => simpa using hl.length_le

/-- The rule for a state of a transceive: an operation that makes the next exchanges of a transceive, and then `f`. -/
theorem Tries.onward {base g : List Xchg} {txs w : List Bytes} {s : State} {p : Port} {f : State → State}
    (hp : Tries txs s p) (hg : Adds base g s.log) (ha : Allowed g txs) (hw : WholeTx w)
    (hnext : g.map Xchg.tx ++ txs <+: w)
    (hf : ∀ (t : State) (g' : List Xchg), p = .done t → Adds base g' t.log → g'.map Xchg.tx = g.map Xchg.tx ++ txs →
      (s.rst = [] → t.rst = []) → Onward base s.rst (f t)) :
    Onward base s.rst (p.andThen f) := by
  cases hp with
  | done hlog htx hret hrst =>
    refine hf _ _ rfl ⟨by rw [hlog, hg.log, List.append_assoc], hg.returned.append hret,
      hg.sends.allowed ha (by rw [htx])⟩ (by rw [List.map_append, htx]) hrst
  | @failed t l tx hlog htx hret hend himg =>
    have hlog' : t.log = base ++ (g ++ l ++ [⟨tx, none⟩]) := by rw [hlog, hg.log]; simp only [List.append_assoc]
    refine .failed hlog' ⟨hg.returned.append hret, ?_, w, hw, ?_⟩ hend himg
    · rw [List.append_assoc]
      exact hg.sends.allowed ha (by simpa using htx)
    · rw [List.map_append, List.append_assoc]
      exact ((List.prefix_append_right_inj _).2 htx).trans hnext
  | @reset t l hlog htx _ hrst hend =>
    have hlog' : t.log = base ++ (g ++ l) := by rw [hlog, hg.log, List.append_assoc]
    exact .reset hrst hlog' (hg.sends.allowed ha htx) hend

theorem publish_not_running (r : Rsp) (s : State) : (publish r s).running = false := by
  by_cases hf : s.fault = .none <;> simp [State.running, State.busy, hf]

/-- A publication where the chip was last commanded to IDLE. -/
theorem Complete.publish {base g : List Xchg} {s : State} (h : Complete g) (hlog : s.log = base ++ g)
    (hidle : s.commandedIdle = true) (rst : List Nat) (r : Rsp) : Onward base rst (publish r s) :=
  .finished (t := Machine.publish r s) hlog h hidle (publish_not_running r s)

/-- After the command itself there are only fill bytes. -/
theorem mem_queryTx {i : Instr} {n : Nat} {tx : Bytes} (h : tx ∈ queryTx i n) :
    tx = (encode i).2 ∨ tx.head? = some 0xFF := by
  rcases List.mem_cons.1 h with h | h
  · exact .inl h
  · split_ifs at h with hn
    · cases h
    · obtain ⟨m, rfl⟩ := Nat.exists_eq_succ_of_ne_zero hn
      exact .inr (by rw [List.mem_singleton.1 h]; rfl)

theorem isReadTx_readData (n : Nat) : ∀ tx ∈ queryTx .readData n, isReadTx tx = true := by
  intro tx htx
  rcases mem_queryTx htx with rfl | h
  · rfl
  · simp [isReadTx, h]

section States

variable {base g : List Xchg} {s : State} (hg : Adds base g s.log)

include hg

/-- The states that only read: phase A, phase B, RX_STATUS and READ_DATA. -/
theorem onward_read {txs : List Bytes} {p : Port} {f : State → State} (hp : Tries txs s p)
    (hs : SentTx (g.map Xchg.tx)) (hr : ∀ tx ∈ txs, isReadTx tx = true)
    (hf : ∀ t : State, (f t).log = t.log ∧ (f t).rst = t.rst ∧
      (f t).st ∈ [St.xAWait, .xBSample, .xBWait, .xRxstat, .xRxdata, .xRestore]) :
    Onward base s.rst (p.andThen f) := by
  have hno : ∀ tx ∈ txs, tx.head? ≠ some 0x09 := fun tx htx h9 => by simpa [isReadTx, h9] using hr tx htx
  refine hp.onward hg (.inl hno) (.sent (hs.append hr)) (List.prefix_append ..) fun t g' _ hg' htx hrst => ?_
  obtain ⟨hlog, hrst', hst⟩ := hf t
  refine .underway (hlog ▸ hg') ?_ fun h => hrst'.trans (hrst h)
  have hsent : SentTx (g'.map Xchg.tx) := htx ▸ hs.append hr
  simp only [List.mem_cons, List.not_mem_nil, or_false] at hst
  rcases hst with h | h | h | h | h | h <;> simpa only [Reached, h] using hsent

/-- The check of R144, after the RF_STATUS read. -/
theorem onward_chkTransmit (hp : g.map Xchg.tx = prepareTx) (hts : s.ts = Config.waitTransmit → EndsChecked g) :
    Onward base s.rst (chkTransmit s) := by
  unfold chkTransmit
  split
  · next h => exact .underway hg ⟨hp, hts h⟩ id
  · have hcleanup := tries_setMode_idle { s with fault := .protocolState }
    refine hcleanup.onward (f := protocolStateError) hg (.inl (by decide)) .refused (by rw [hp])
      fun t g' hset hg' htx _ => ?_
    have hwhole : WholeTx (g'.map Xchg.tx) := by rw [htx, hp]; exact .refused
    exact (hg'.complete hwhole).publish hg'.log (commandedIdle_of_setMode_idle hset) _ _

/-- A preparation that returned, by what its last exchange returned. -/
theorem endsChecked_of_prepareTx {v : Bytes} (hp : g.map Xchg.tx = prepareTx)
    (hlast : s.log.getLast? = some ⟨fillTx, some v⟩) (hts : (u32le v).extractLsb' 24 3 = (1 : BitVec 3)) :
    EndsChecked g := by
  obtain ⟨rxs, hlen, hzip⟩ := hg.returned.exists_answers
  rw [hp] at hlen hzip
  match rxs, hlen with
  | [r1, r2, r3, r4, r5], _ =>
    rw [hg.log, hzip] at hlast
    have hv : r5 = v := by simpa [prepareTx, readTx] using hlast
    exact ⟨[], r1, r2, r3, r4, r5, hzip, hv ▸ hts⟩

theorem onward_xClr (hr : g.map Xchg.tx = []) : Onward base s.rst (xClr s) := by
  refine (tries_clearIrq s).onward hg (.inl (by decide)) .refused (by rw [hr]; exact ⟨_, rfl⟩)
    fun t g' _ hg' htx hrst => .underway hg' ?_ hrst
  rwa [hr] at htx

theorem onward_xMode (hr : g.map Xchg.tx = [clearIrqTx]) : Onward base s.rst (xMode s) := by
  refine (tries_setMode_transceive s).onward hg (.inl (by decide)) .refused (by rw [hr]; exact ⟨_, rfl⟩)
    fun t g' _ hg' htx hrst => .underway hg' ?_ hrst
  rwa [hr] at htx

theorem onward_xChk (hr : g.map Xchg.tx = [clearIrqTx, modeAndTx, modeOrTx]) : Onward base s.rst (xChk s) := by
  refine (tries_regRead Config.regRfStatus s).onward hg (.inl (by decide)) .refused
    (by rw [hr]; exact ⟨[modeAndTx], rfl⟩) fun t g' hread hg' htx hrst => ?_
  rw [hr] at htx
  have hchecked := onward_chkTransmit (s := { t with ts := bitField 3 Config.tsLsb (u32le t.ret) }) hg' htx
    (endsChecked_of_prepareTx hg' htx (regRead_done_ret hread))
  exact hchecked.of_rst hrst

theorem onward_xSend (hr : g.map Xchg.tx = prepareTx) (hchecked : EndsChecked g) : Onward base s.rst (xSend s) := by
  have hsent : SentTx (g.map Xchg.tx ++ [[0x09, 0x00] ++ s.txf]) := by rw [hr]; exact .sent s.txf
  refine (tries_exchange ([0x09, 0x00] ++ s.txf) s).onward hg (.inr ⟨hchecked, _, rfl⟩) (.sent hsent)
    (List.prefix_append ..) fun t g' _ hg' htx hrst => .underway hg' ?_ hrst
  rwa [← htx] at hsent

theorem onward_xRestore (hr : SentTx (g.map Xchg.tx)) : Onward base s.rst (xRestore s) := by
  refine (tries_setMode_idle s).onward hg (.inl (by decide)) (.sent hr) List.prefix_rfl
    fun t g' hset hg' htx hrst => .underway hg' ?_ hrst
  have hwhole : WholeTx (g'.map Xchg.tx) ∧ t.commandedIdle = true :=
    ⟨htx ▸ .sent hr, commandedIdle_of_setMode_idle hset⟩
  rcases returnState_cases t.rq with h | h | h <;> simp only [Reached, h] <;> exact hwhole

theorem onward_decodeStep (hw : WholeTx (g.map Xchg.tx)) (hidle : s.commandedIdle = true) :
    Onward base s.rst (decodeStep s) := by
  unfold decodeStep
  split <;> exact (hg.complete hw).publish hg.log hidle _ _

theorem onward_mRead (hw : WholeTx (g.map Xchg.tx)) (hidle : s.commandedIdle = true) :
    Onward base s.rst (mRead s) := by
  unfold mRead
  split <;> exact (hg.complete hw).publish hg.log hidle _ _

theorem onward_mWchunk (hw : WholeTx (g.map Xchg.tx)) (hidle : s.commandedIdle = true) :
    Onward base s.rst (mWchunk s) := by
  have hcomplete : Complete g := hg.complete hw
  unfold mWchunk
  split
  · exact hcomplete.publish hg.log hidle _ _
  · unfold nextChunk
    split
    · exact .next hg.log hcomplete rfl id
    · exact Complete.publish (s := chunkWritten s) hcomplete hg.log hidle _ _

/-- One step of a transceive, state by state. -/
theorem onward_seqStep (hr : Reached s g) : Onward base s.rst (seqStep s) := by
  unfold Reached at hr
  unfold seqStep
  cases hs : s.st <;> rw [hs] at hr <;> simp only at hr
  case xClr => exact onward_xClr hg hr
  case xMode => exact onward_xMode hg hr
  case xChk => exact onward_xChk hg hr
  case xSend =>
    obtain ⟨hp, hchecked⟩ := hr
    exact onward_xSend hg hp hchecked
  case xASample =>
    refine onward_read hg (tries_regRead _ s) hr (by decide) fun t => ?_
    unfold aSampled
    split_ifs <;> simp [noAnswerResult]
  case xAWait | xBWait => exact .underway hg hr id
  case xBSample =>
    refine onward_read hg (tries_regRead _ s) hr (by decide) fun t => ?_
    unfold bSampled
    split_ifs <;> simp [noAnswerResult]
  case xRxstat =>
    refine onward_read hg (tries_regRead _ s) hr (by decide) fun t => ?_
    simp only
    split_ifs <;> simp [noAnswerResult]
  case xRxdata =>
    exact onward_read hg (tries_query _ _ s) hr (isReadTx_readData _) fun t => by simp
  case xRestore => exact onward_xRestore hg hr
  case decode =>
    obtain ⟨hw, hidle⟩ := hr
    exact onward_decodeStep hg hw hidle
  case mRead =>
    obtain ⟨hw, hidle⟩ := hr
    exact onward_mRead hg hw hidle
  case mWchunk =>
    obtain ⟨hw, hidle⟩ := hr
    exact onward_mWchunk hg hw hidle

end States

theorem Reached.running {s : State} {g : List Xchg} (h : Reached s g) : s.running = true := by
  refine running_iff.2 ⟨fun hs => ?_, fun hs => ?_, fun hs => ?_⟩ <;> rw [Reached, hs] at h <;> exact h

/-- One step of the unit in a transceive. -/
theorem onward_unitStep {base g : List Xchg} {s : State} (hg : Adds base g s.log) (hr : Reached s g) :
    Onward base s.rst (unitStep s) := by
  unfold unitStep
  rcases sampleRst_cases s with ⟨-, h⟩ | ⟨n, rest, hrst, h⟩ | ⟨rest, hrst, h⟩ <;> rw [h]
  · exact onward_seqStep hg hr
  · exact (onward_seqStep (s := { s with rst := n :: rest }) hg hr).of_rst fun h => by simp [hrst] at h
  · exact .reset (by simp [hrst]) hg.log hg.sends rfl

end Sys2Proof.Proofs
end

section
/-!
PROOFS. The two statements about the log of a whole request: no frame is sent without WAIT_TRANSMIT (41_transceive.md
R145), and the cleanup contract (R159). A request that is not refused and is not CODEC's is a run of transceives.
-/

namespace Sys2Proof.Proofs

open Sys2Proof Sys2Proof.Machine

/-! ## A run of transceives -/

/-- The log is `start`, whole transceives, and what the present one has added. -/
def Transceives (start : List Xchg) (rst : List Nat) (t : State) : Prop :=
  ∃ whole : List (List Xchg), (∀ g ∈ whole, Complete g) ∧ Onward (start ++ whole.flatten) rst t

/-- Where a transceive is entered, the log has no exchange of it yet. -/
theorem Transceives.entered {start : List Xchg} {rst : List Nat} {t : State} {whole : List (List Xchg)}
    (hwhole : ∀ g ∈ whole, Complete g) (hlog : t.log = start ++ whole.flatten) (hst : t.st = .xClr)
    (hrst : rst = [] → t.rst = []) : Transceives start rst t := by
  refine ⟨whole, hwhole, .underway (g := []) ⟨by simp [hlog], returned_nil, sendsChecked_nil⟩ ?_ hrst⟩
  rw [Reached, hst]
  rfl

theorem complete_concat {whole : List (List Xchg)} {g : List Xchg} (hwhole : ∀ g ∈ whole, Complete g)
    (hg : Complete g) : ∀ g' ∈ whole ++ [g], Complete g' := by
  intro g' hg'
  rcases List.mem_append.1 hg' with h | h
  · exact hwhole g' h
  · exact List.mem_singleton.1 h ▸ hg

theorem Failed.not_running {t : State} (h : Failed t) : t.running = false := by
  obtain ⟨hst, -⟩ := h
  simp [State.running, hst]

theorem transceives_unitStep {start : List Xchg} {rst : List Nat} {t : State} (h : Transceives start rst t)
    (hrun : t.running = true) : Transceives start rst (unitStep t) := by
  obtain ⟨whole, hwhole, hon⟩ := h
  cases hon with
  | underway hg hr hrst => exact ⟨whole, hwhole, (onward_unitStep hg hr).of_rst hrst⟩
  | @next g hlog hg hst hrst =>
    have hlog' : t.log = start ++ (whole ++ [g]).flatten := by simp [hlog]
    have hr : Reached t [] := by rw [Reached, hst]; rfl
    exact ⟨whole ++ [g], complete_concat hwhole hg,
      (onward_unitStep ⟨by rw [hlog', List.append_nil], returned_nil, sendsChecked_nil⟩ hr).of_rst hrst⟩
  | finished _ _ _ hend => simp [hend] at hrun
  | failed _ _ hend _ => simp [hend.not_running] at hrun
  | reset _ _ _ hst => simp [State.running, State.busy, hst] at hrun

theorem Transceives.sends {start : List Xchg} {rst : List Nat} {t : State} (h : Transceives start rst t) :
    ∃ l : List Xchg, t.log = start ++ l ∧ SendsChecked l := by
  obtain ⟨whole, hwhole, hon⟩ := h
  have hflat : SendsChecked whole.flatten := SendsChecked.flatten fun g hg => (hwhole g hg).sends
  have hadd {m : List Xchg} (hlog : t.log = start ++ whole.flatten ++ m) (hm : SendsChecked m) :
      ∃ l : List Xchg, t.log = start ++ l ∧ SendsChecked l :=
    ⟨whole.flatten ++ m, by rw [hlog, List.append_assoc], hflat.append hm⟩
  cases hon with
  | underway hg _ _ => exact hadd hg.log hg.sends
  | next hlog hg _ _ => exact hadd hlog hg.sends
  | finished hlog hg _ _ => exact hadd hlog hg.sends
  | failed hlog hcut _ _ => exact hadd hlog hcut.sends
  | reset _ hlog hsends _ => exact hadd hlog hsends

/-! ## Requests that send nothing -/

/-- The request has ended, and nothing it added to the log `start` sends without a checked preparation. -/
def EndedChecked (start : List Xchg) (t : State) : Prop :=
  t.running = false ∧ ∃ l : List Xchg, t.log = start ++ l ∧ SendsChecked l

theorem endedChecked_of_log {start : List Xchg} {t : State} (hrun : t.running = false) (hlog : t.log = start) :
    EndedChecked start t := ⟨hrun, [], by rw [hlog, List.append_nil], sendsChecked_nil⟩

/-- An operation that sends nothing, and a publication. -/
theorem Tries.endedChecked {txs : List Bytes} {s : State} {p : Port} {f : State → State} (hp : Tries txs s p)
    (ha : ∀ tx ∈ txs, tx.head? ≠ some 0x09) (hf : ∀ t : State, ∃ r : Rsp, f t = publish r t) :
    EndedChecked s.log (p.andThen f) := by
  have hl {l : List Xchg} (h : l.map Xchg.tx <+: txs) : SendsChecked l :=
    sendsChecked_nil.allowed (.inl ha) h
  cases hp with
  | @done t l hlog htx _ _ =>
    obtain ⟨r, hr⟩ := hf t
    rw [Port.andThen, hr]
    exact ⟨publish_not_running r t, l, hlog, hl (by rw [htx])⟩
  | failed hlog htx _ hend _ => exact ⟨hend.not_running, _, hlog, hl (by simpa using htx)⟩
  | reset hlog htx _ _ hst => exact ⟨by simp [Port.andThen, State.running, State.busy, hst], _, hlog, hl htx⟩

theorem endedChecked_codec (s : State) : EndedChecked s.log (codec s) := by
  unfold codec
  split
  · exact ((tries_clearIrq s).bind tries_setMode_idle).endedChecked (by decide) fun t => ⟨_, rfl⟩
  · exact (tries_command _ _ s).endedChecked (by simp [encode, Config.chipOpWriteRegister]) fun t => ⟨_, rfl⟩
  · exact (tries_regOr _ _ s).endedChecked (by simp) fun t => ⟨_, rfl⟩
  · exact (tries_regAnd _ _ s).endedChecked (by simp) fun t => ⟨_, rfl⟩
  · exact (tries_regRead _ s).endedChecked (by simp [readTx, fillTx]) fun t => ⟨_, rfl⟩
  · refine Tries.endedChecked (tries_query _ _ s) (fun tx htx h9 => ?_) fun t => ⟨_, rfl⟩
    rcases mem_queryTx htx with rfl | h
    · cases h9
    · rw [h] at h9
      cases h9
  · exact endedChecked_of_log (publish_not_running _ s) rfl

/-! ## VALIDATE -/

/-- VALIDATE enters a transceive, with nothing exchanged before it. -/
def Enters (s t : State) : Prop :=
  ∃ (f : Bytes) (w : State), t = enterTransceive f w ∧ w.log = s.log ∧ w.rst = s.rst

theorem Enters.transceives {s t : State} {start : List Xchg} {rst : List Nat} (h : Enters s t) (hlog : s.log = start)
    (hrst : rst = [] → s.rst = []) : Transceives start rst t := by
  obtain ⟨f, w, rfl, hw, hwrst⟩ := h
  exact .entered (whole := []) (by simp) (by simpa using hw.trans hlog) rfl fun h => hwrst.trans (hrst h)

/-- All that VALIDATE can do: enter a transceive, go to CODEC, or publish (30_encoding.md R88). -/
inductive Validated (s : State) : State → Prop where
  | enters {t : State} : Enters s t → Validated s t
  | codec : Validated s { s with st := .codec }
  | publish (r : Rsp) : Validated s (publish r s)

theorem validated_startRf (ok : Bool) (f : Bytes) (s : State) : Validated s (startRf ok f s) := by
  unfold startRf
  split
  · exact .enters ⟨f, s, rfl, rfl, rfl⟩
  · exact .publish _

theorem validated_startCodec (ok : Bool) (s : State) : Validated s (startCodec ok s) := by
  unfold startCodec
  split
  · exact .codec
  · exact .publish _

theorem validated_startMemRead (tag : TagRec) (offset length : Half) (s : State) :
    Validated s (startMemRead tag offset length s) := by
  unfold startMemRead
  split_ifs
  any_goals exact .publish _
  exact .enters ⟨_, _, rfl, rfl, rfl⟩

theorem validated_startMemWrite (tag : TagRec) (offset : Half) (data : Bytes) (s : State) :
    Validated s (startMemWrite tag offset data s) := by
  unfold startMemWrite
  split_ifs
  any_goals exact .publish _
  exact .enters ⟨_, _, rfl, rfl, rfl⟩

theorem validated_validate (s : State) : Validated s (validate s) := by
  unfold validate
  split
  · exact .publish _
  · split
    · exact validated_startRf _ _ s
    · split
      any_goals exact validated_startRf _ _ s
      any_goals exact validated_startCodec _ s
      · exact validated_startMemRead _ _ _ s
      · split
        · exact validated_startMemWrite _ _ _ s
        · exact .publish _
      · exact .publish _

/-- A mapper request with no early end reaches the tag (44_tag_memory.md R251, R253, R254). -/
theorem checks_of_memEarlyEnd {tag : TagRec} {offset len : Nat} (h : memEarlyEnd tag offset len = none) :
    geometryFits tag = true ∧ rangeFits tag offset len = true ∧ len ≠ 0 := by
  unfold memEarlyEnd at h
  split_ifs at h with hgeometry hrange hlen
  exact ⟨by simpa using hgeometry, by simpa using hrange, hlen⟩

theorem enters_startMemWrite {tag : TagRec} {offset : Half} {data : Bytes}
    (h : memEarlyEnd tag offset.toNat data.length = none) (s : State) : Enters s (startMemWrite tag offset data s) := by
  obtain ⟨hgeometry, hrange, hlen⟩ := checks_of_memEarlyEnd h
  have hrange : rangeOk tag offset.toNat data.length = true := hrange
  have hdata : data ≠ [] := mt List.length_eq_zero_iff.2 hlen
  simp only [startMemWrite, geometryOk_eq, hgeometry, hrange, hdata, Bool.not_true, Bool.false_eq_true, if_false]
  exact ⟨_, _, rfl, rfl, rfl⟩

theorem earlyEnd_memWrite (tag : TagRec) (offset : Half) (data : Bytes) :
    earlyEnd (.memWrite tag offset data) =
      if 65535 < data.length then some .badRequest else memEarlyEnd tag offset.toNat data.length := rfl

theorem validate_enters_memWrite {tag : TagRec} {offset : Half} {data : Bytes} {s : State}
    (h : earlyEnd (.memWrite tag offset data) = none) (hq : s.rq = .op (.memWrite tag offset data)) :
    Enters s (validate s) := by
  rw [earlyEnd_memWrite] at h
  rcases Nat.lt_or_ge 65535 data.length with hlen | hlen
  · simp [hlen] at h
  · rw [if_neg (Nat.not_lt.2 hlen)] at h
    have hok : dataLengthOk data = true := by
      refine decide_eq_true ?_
      rw [Config.lengthBits]
      omega
    have hv : validate s = startMemWrite tag offset data s := by
      simp only [validate, hq, isoReqOf, hok, if_true]
    rw [hv]
    exact enters_startMemWrite h s

/-- A request without a frame that is neither a passthrough request nor the mapper's is refused (30_encoding.md R88). -/
theorem refused_of_no_frame {i : Instr} (hi : isChipCommand i = false) (hf : frameOf i = none) :
    (if isChipCommand i || (frameOf i).isSome then none else some Cls.badRequest) ≠ none := by
  simp [hi, hf]

/-- A request that may wait passes the checks of R88 and R251 to R254. -/
theorem validate_enters {i : Instr} {s : State} (hi : isChipCommand i = false) (hw : waitBound i ≠ 0)
    (hq : s.rq = .op i) : Enters s (validate s) := by
  cases hf : frameOf i with
  | some f =>
    refine ⟨f, s.startedBy i, validate_frame hf hq, ?_⟩
    unfold State.startedBy
    split <;> exact ⟨rfl, rfl⟩
  | none =>
    have hearly : earlyEnd i = none := by
      by_contra h
      exact hw (if_pos (Option.isSome_iff_ne_none.2 h))
    cases i
    case memWrite tag offset data => exact validate_enters_memWrite hearly hq
    case memRead tag offset length =>
      obtain ⟨hgeometry, hrange, hlen⟩ := checks_of_memEarlyEnd hearly
      have hreaches : memReaches tag offset.toNat length.toNat = true := by
        simp [memReaches, hgeometry, hrange, Nat.one_le_iff_ne_zero.2 hlen]
      simp [frameOf, hreaches] at hf
    case chipIdle | regWrite | regOr | regAnd | regRead => exact absurd rfl hw
    case eepromRead => exact absurd (ite_self _) hw
    all_goals exact absurd hearly (refused_of_no_frame hi hf)

/-! ## A whole request -/

/-- Between two steps of a request: it has not begun, it is in a transceive, or it has ended. -/
inductive Logged (start : List Xchg) (rst : List Nat) (t : State) : Prop where
  | waiting : t.st = .validate ∨ t.st = .codec → t.log = start → (rst = [] → t.rst = []) → Logged start rst t
  | transceives : Transceives start rst t → Logged start rst t
  | ended : EndedChecked start t → Logged start rst t

theorem Validated.logged {s t : State} {start : List Xchg} {rst : List Nat} (h : Validated s t)
    (hlog : s.log = start) (hrst : rst = [] → s.rst = []) : Logged start rst t := by
  cases h with
  | enters h => exact .transceives (h.transceives hlog hrst)
  | codec => exact .waiting (.inr rfl) hlog hrst
  | publish r => exact .ended (endedChecked_of_log (publish_not_running r s) hlog)

/-- The two states before a transceive, after the sampling of `rst`. -/
theorem logged_seqStep {start : List Xchg} {rst : List Nat} {t : State} (hst : t.st = .validate ∨ t.st = .codec)
    (hlog : t.log = start) (hrst : rst = [] → t.rst = []) : Logged start rst (seqStep t) := by
  rcases hst with hst | hst
  · simpa only [seqStep, hst] using (validated_validate t).logged hlog hrst
  · simpa only [seqStep, hst, hlog] using Logged.ended (hlog ▸ endedChecked_codec t)

theorem logged_unitStep {start : List Xchg} {rst : List Nat} {t : State} (h : Logged start rst t)
    (hrun : t.running = true) : Logged start rst (unitStep t) := by
  cases h with
  | waiting hst hlog hrst =>
    unfold unitStep
    rcases sampleRst_cases t with ⟨-, h⟩ | ⟨n, rest, hnext, h⟩ | ⟨rest, -, h⟩ <;> rw [h]
    · exact logged_seqStep hst hlog hrst
    · exact logged_seqStep (t := { t with rst := n :: rest }) hst hlog fun h => by simp [hrst h] at hnext
    · exact .ended (endedChecked_of_log rfl hlog)
  | transceives h => exact .transceives (transceives_unitStep h hrun)
  | ended h => simp [h.1] at hrun

theorem logged_request (q : Request) {s : State} (hr : s.req_ready = true) : Logged s.log s.rst (request q s) := by
  rw [request_eq hr]
  exact runSeq_keeps (P := Logged s.log s.rst) (fun _ => logged_unitStep) _ _ (.waiting (.inl rfl) rfl id)

theorem Logged.sends {start : List Xchg} {rst : List Nat} {t : State} (h : Logged start rst t) :
    ∃ l : List Xchg, t.log = start ++ l ∧ SendsChecked l := by
  cases h with
  | waiting _ hlog _ => exact ⟨[], by rw [hlog, List.append_nil], sendsChecked_nil⟩
  | transceives h => exact h.sends
  | ended h => exact h.2

/-- Settles O33: what a request adds to the log is sent only after a checked preparation. -/
theorem sendNeedsWaitTransmit : Obligations.SendNeedsWaitTransmit := by
  intro i s t hi hr h
  rw [exec_request hi] at h
  cases h
  exact (logged_request _ hr).sends

/-! ## The cleanup contract -/

/-- A request that may wait is a run of transceives from its first exchange on. -/
theorem transceives_request {i : Instr} {s : State} (hi : isChipCommand i = false) (hw : waitBound i ≠ 0)
    (hr : s.req_ready = true) (hs : s.rst = []) : Transceives s.log [] (request (.op i) s) := by
  have henter : Enters (accept (.op i) s) (validate (accept (.op i) s)) := validate_enters hi hw rfl
  rw [request_eq hr, runSeq_step (s := accept (.op i) s) (by decide) rfl hs]
  exact runSeq_keeps (P := Transceives s.log []) (fun _ => transceives_unitStep) _ _
    (henter.transceives rfl fun _ => hs)

theorem request_not_running {q : Request} {s : State} (hr : s.req_ready = true) : (request q s).running = false := by
  obtain ⟨hfault, -⟩ := ready_fault hr
  rw [request_eq hr]
  exact (atRest_runSeq _ (s := accept q s) ⟨rfl, hfault, trivial⟩ le_rfl).not_running

/-- What the contract says of a whole transceive. -/
theorem Complete.contract {g : List Xchg} (h : Complete g) :
    (∀ x ∈ g, x.rx ≠ none) ∧ (g.map Xchg.tx).take 3 = [clearIrqTx, modeAndTx, modeOrTx] ∧
      (g.map Xchg.tx).count modeOrTx = 1 ∧ (g.map Xchg.tx).count modeAndTx = 2 ∧
      (g.map Xchg.tx).getLast? = some modeAndTx := by
  obtain ⟨l, hl, ⟨rest, hrest⟩, -, henter, hleave⟩ := h.shape.eq_concat
  refine ⟨h.returned, ?_, ?_, ?_, ?_⟩ <;> rw [hl]
  · rw [hrest]; rfl
  · rw [List.count_append, henter]; rfl
  · rw [List.count_append, hleave]; rfl
  · rw [List.getLast?_concat]

/-- What the contract says of the byte strings of a transceive that `tx` cuts short. -/
theorem WholeTx.cut {w txs : List Bytes} {tx : Bytes} (hw : WholeTx w) (h : txs ++ [tx] <+: w) :
    (txs ++ [tx]).take 3 <+: [clearIrqTx, modeAndTx, modeOrTx] ∧ (txs ++ [tx]).count clearIrqTx = 1 ∧
      (txs ++ [tx]).count modeOrTx ≤ 1 ∧ txs.count modeAndTx ≤ 1 := by
  obtain ⟨l, rfl, ⟨rest, hrest⟩, hclear, henter, hleave⟩ := hw.eq_concat
  have hl : txs <+: l := by
    have hlen := h.length_le
    simp only [List.length_append, List.length_singleton, Nat.add_le_add_iff_right] at hlen
    exact List.prefix_of_prefix_length_le ((List.prefix_append ..).trans h) (List.prefix_append ..) hlen
  refine ⟨?_, le_antisymm ?_ ?_, ?_, ?_⟩
  · have := h.take 3
    rw [hrest] at this
    exact this
  · have := h.sublist.count_le clearIrqTx
    rwa [List.count_append (l₁ := l), hclear] at this
  · have hhead : (txs ++ [tx]).head? = some clearIrqTx := by
      rw [hrest] at h
      obtain ⟨rest', h⟩ := h
      have := congrArg List.head? h
      rwa [List.head?_append_of_ne_nil _ (by simp)] at this
    exact List.count_pos_iff.2 (List.mem_of_head? hhead)
  · have := h.sublist.count_le modeOrTx
    rwa [List.count_append (l₁ := l), henter] at this
  · exact hleave ▸ hl.sublist.count_le modeAndTx

/-- Settles O34: the run of transceives, at its end. -/
theorem cleanupContract : Obligations.CleanupContract := by
  intro i s t hi hw hr hs h
  rw [exec_request hi] at h
  cases h
  obtain ⟨whole, hwhole, hon⟩ := transceives_request hi hw hr hs
  have hrun := request_not_running (q := .op i) hr
  cases hon with
  | underway _ hreached _ => simp [hreached.running] at hrun
  | next _ _ hst _ => simp [State.running, State.busy, hst] at hrun
  | @finished g hlog hg hidle _ =>
    exact ⟨whole ++ [g], [], by simp [hlog], fun g' hg' => (complete_concat hwhole hg g' hg').contract,
      .inl ⟨rfl, hidle⟩⟩
  | @failed g tx hlog hcut hend himg =>
    obtain ⟨hret, -, w, hwhole', hpre⟩ := hcut
    obtain ⟨-, hfault⟩ := hend
    obtain ⟨htake, hclear, henter, hleave⟩ := hwhole'.cut hpre
    refine ⟨whole, g ++ [⟨tx, none⟩], hlog, fun g' hg' => (hwhole g' hg').contract, .inr ⟨g, tx, rfl, hret, ?_⟩⟩
    rw [List.map_append]
    exact ⟨htake, hclear, henter, hleave, hfault, himg⟩
  | reset hrst => exact absurd rfl hrst

end Sys2Proof.Proofs
end

section
/-!
PROOFS. The requests of one transceive (41_transceive.md R157, R162): each ends after the path its transceive takes with
the class its reply decodes to, or where the WAIT_TRANSMIT check fails (R144); and the four paths are all.
-/

namespace Sys2Proof.Proofs

open Sys2Proof Sys2Proof.Machine

/-! ## From acceptance to the transceive -/

/-- Accepted: R25 clears `rsp_valid` and enters VALIDATE. -/
def accepted (s : State) : State := { s with rsp_valid := false, st := .validate }

theorem startedBy_accept (i : Instr) (s : State) : (accept (.op i) s).startedBy i = accepted (s.startedBy i) := by
  cases i <;> rfl

theorem startedBy_chip_in (i : Instr) (s : State) : (s.startedBy i).chip_in = s.chip_in := by cases i <;> rfl
theorem startedBy_nx (i : Instr) (s : State) : (s.startedBy i).nx = s.nx := by cases i <;> rfl
theorem startedBy_rst (i : Instr) (s : State) : (s.startedBy i).rst = s.rst := by cases i <;> rfl
theorem startedBy_fault (i : Instr) (s : State) : (s.startedBy i).fault = s.fault := by cases i <;> rfl
theorem startedBy_tag_mem (i : Instr) (s : State) : (s.startedBy i).tag_mem = s.tag_mem := by cases i <;> rfl
theorem startedBy_rq (i : Instr) (s : State) : (s.startedBy i).rq = .op i := by cases i <;> rfl

theorem isChipCommand_of_frame {i : Instr} {f : Bytes} (h : frameOf i = some f) : isChipCommand i = false := by
  cases hi : isChipCommand i with
  | false => rfl
  | true => cases i <;> cases hi <;> cases h

/-- A request of one transceive is the run of that transceive. -/
theorem exec_frame {i : Instr} {f : Bytes} {s : State} (hf : frameOf i = some f) (hr : s.req_ready = true)
    (hs : s.rst = []) :
    exec i s = .next (runSeq (Config.maxSteps - 1) (enterTransceive f (accepted (s.startedBy i)))) := by
  rw [exec_request (isChipCommand_of_frame hf), request_eq hr, runSeq_step (s := accept (.op i) s) (by decide) rfl hs]
  have hv : validate (accept (.op i) s) = enterTransceive f (accepted (s.startedBy i)) := by
    rw [validate_frame hf rfl, startedBy_accept]
  rw [← hv]
  rfl

/-! ## The reply -/

/-- The offset in the first block fits the register `m_skip` (44_tag_memory.md R251, R252). -/
theorem toNat_m_skip {tag : TagRec} (h : geometryFits tag = true) (offset : Nat) :
    (BitVec.ofNat 5 (offset % tag.bs)).toNat = offset % tag.bs := by
  simp only [geometryFits, Bool.and_eq_true, decide_eq_true_eq] at h
  obtain ⟨⟨⟨hmin, hmax⟩, -⟩, -⟩ := h
  have := Nat.mod_lt offset hmin
  exact Nat.mod_eq_of_lt (by omega)

theorem returnState_of_frame {i : Instr} {f : Bytes} (h : frameOf i = some f)
    (hm : ∀ t o l, i ≠ .memRead t o l) : returnState (.op i) = .decode := by
  cases i
  case memRead => exact absurd rfl (hm _ _ _)
  case memWrite => cases h
  all_goals rfl

/-- The state after the transceive decodes the reply and publishes it. -/
theorem seqStep_reply {i : Instr} {f : Bytes} {s v : State} (hf : frameOf i = some f) (hq : v.rq = .op i)
    (hst : v.st = returnState (.op i)) (hskip : v.m_skip = (s.startedBy i).m_skip) :
    seqStep v = publish (replyOf i v.tflags v.tpayload) v := by
  by_cases hm : ∃ tag o l, i = .memRead tag o l
  · obtain ⟨tag, o, l, rfl⟩ := hm
    have hgeometry : geometryFits tag = true := by
      simp only [frameOf, Option.ite_none_right_eq_some, memReaches, Bool.and_eq_true] at hf
      obtain ⟨⟨⟨hgeometry, -⟩, -⟩, -⟩ := hf
      exact hgeometry
    have hskip : v.m_skip.toNat = o.toNat % tag.bs := by rw [hskip]; exact toNat_m_skip hgeometry _
    have hstep : seqStep v = mRead v := by rw [seqStep, hst]; rfl
    rw [hstep]
    simp only [mRead, hq, hskip, readReply_eq, replyOf]
  · have hm : ∀ t o l, i ≠ .memRead t o l := fun t o l h => hm ⟨t, o, l, h⟩
    have hstep : seqStep v = decodeStep v := by rw [seqStep, hst, returnState_of_frame hf hm]
    rw [hstep, decodeStep_of_rq hq, decodeReply_eq hf _ _ hm]

/-- The state a transceive returns to, with the registers of `v`. -/
def backFrom (i : Instr) (v : State) : State := { v with rsp_valid := false, st := returnState (.op i) }

theorem backFrom_running (i : Instr) (v : State) : (backFrom i v).running = true := by
  rcases returnState_cases (.op i) with h | h | h <;> simp [backFrom, State.running, State.busy, h]

theorem publish_backFrom {v : State} (h : v.fault = .none) (i : Instr) (r : Rsp) :
    publish r (backFrom i v) = v.finished r := by
  simp only [publish, backFrom, State.finished, State.responded, h, if_true]

/-- The last step of a request of one transceive. -/
theorem run_reply {i : Instr} {f : Bytes} {s v : State} {n : Nat} (hn : 0 < n) (hf : frameOf i = some f)
    (hq : v.rq = .op i) (hrst : v.rst = []) (hfault : v.fault = .none) (hskip : v.m_skip = (s.startedBy i).m_skip) :
    runSeq n (backFrom i v) = v.finished (replyOf i v.tflags v.tpayload) := by
  have hstep : seqStep (backFrom i v) = v.finished (replyOf i v.tflags v.tpayload) :=
    (seqStep_reply (v := backFrom i v) hf hq rfl hskip).trans (publish_backFrom hfault i _)
  rw [runSeq_step hn (backFrom_running i v) hrst, hstep, runSeq_idle rfl]

/-! ## The four paths -/

theorem afterExchanges_accepted (l : List Bytes) (s : State) :
    (accepted s).afterExchanges l = accepted (s.afterExchanges l) := by
  simp only [State.afterExchanges, State.sent, sentFrom_congr (s := accepted s) (t := s) rfl rfl]
  rfl

/-- What acceptance writes has no part in a transceive. -/
theorem after_accepted (h : Heard) (f : Bytes) (s : State) : h.after f (accepted s) = accepted (h.after f s) := by
  have hv : ∀ k, valueAt k (accepted s) = valueAt k s := fun _ => valueAt_congr rfl rfl _
  have ha : ∀ k n, answerAt k n (accepted s) = answerAt k n s := fun _ _ => answerAt_congr rfl rfl _ _
  have hp : h.path f (accepted s) = h.path f s := by cases h <;> simp only [Heard.path, countAt, hv]
  unfold Heard.after Heard.ran
  rw [hp, afterExchanges_accepted]
  cases h <;> simp only [hv, countAt, frameAt, ha] <;> rfl

/-- What a transceive does not write. -/
theorem after_kept (h : Heard) (f : Bytes) (s : State) : (h.after f s).rq = s.rq ∧ (h.after f s).rst = s.rst ∧
    (h.after f s).fault = s.fault ∧ (h.after f s).m_skip = s.m_skip := by
  cases h <;> exact ⟨rfl, rfl, rfl, rfl⟩

/-- A request ends after the path its transceive takes, whichever it is. -/
theorem requestEnds_heard (h : Heard) : requestEnds h := by
  intro i f s hf hr hs hh
  obtain ⟨hfault, -⟩ := ready_fault hr
  obtain ⟨hrq, hrst, hfault', hskip⟩ := after_kept h f (s.startedBy i)
  have hheard : h.heard f (accepted (s.startedBy i)) :=
    (heard_congr (s := s) (t := accepted (s.startedBy i)) (startedBy_chip_in i s).symm (startedBy_nx i s).symm f h).1 hh
  have hsteps : h.steps ≤ 111 := heard_steps_le hh
  have hmax : Config.maxSteps = 29192 := rfl
  have hrun := heard_entered (w := accepted (s.startedBy i)) (Config.maxSteps - 1 - h.steps)
    ((startedBy_rst i s).trans hs) hheard
  have hback : { h.after f (accepted (s.startedBy i)) with st := returnState (accepted (s.startedBy i)).rq } =
      backFrom i (h.after f (s.startedBy i)) := by
    rw [after_accepted, show (accepted (s.startedBy i)).rq = .op i from startedBy_rq i s]
    rfl
  rw [hback, Nat.sub_add_cancel (by omega)] at hrun
  rw [exec_frame hf hr hs, hrun]
  exact congrArg _ (run_reply (s := s) (by omega) hf (hrq.trans (startedBy_rq i s))
    (hrst.trans ((startedBy_rst i s).trans hs)) (hfault'.trans ((startedBy_fault i s).trans hfault)) hskip)

/-- Settles O25: the path of a received frame. -/
theorem frameReceived : Obligations.FrameReceived := fun j k => requestEnds_heard (.frame j k)

/-- Settles O26: the path on which phase A times out. -/
theorem noRxStart : Obligations.NoRxStart := requestEnds_heard .silent

/-- Settles O27: the paths on which phase B times out. -/
theorem noRxComplete : Obligations.NoRxComplete := fun j => requestEnds_heard (.started j)

/-- Settles O28: the paths of an empty response. -/
theorem emptyResponse : Obligations.EmptyResponse := fun j k => requestEnds_heard (.empty j k)

/-! ## The paths are all -/

/-- An answer that stands on the tape returns. -/
theorem answerAt_isSome {s : State} {k : Nat} (hlen : 117 ≤ s.chip_in.length)
    (hreturn : ∀ a ∈ s.chip_in.take 117, a ≠ .fails) (hk : k < 117) (n : Nat) : (answerAt k n s).isSome = true := by
  have hdrop : s.chip_in.drop k = s.chip_in[k] :: s.chip_in.drop (k + 1) := List.drop_eq_getElem_cons (by omega)
  have hmem : s.chip_in[k] ∈ s.chip_in.take 117 := by
    have : k < (s.chip_in.take 117).length := by simp; omega
    simpa using List.getElem_mem this
  unfold answerAt drawn nextAnswer
  simp only [hdrop]
  cases ha : s.chip_in[k] with
  | fails => exact absurd ha (hreturn _ hmem)
  | returns rx => rfl

theorem allReturn_of_tape {s : State} (hlen : 117 ≤ s.chip_in.length)
    (hreturn : ∀ a ∈ s.chip_in.take 117, a ≠ .fails) {txs : List Bytes} (htxs : txs.length ≤ 117) :
    s.allReturn txs = true := by
  have hsent (txs : List Bytes) (k : Nat) (hk : k + txs.length ≤ 117) :
      (sentFrom k s txs).all (fun x => x.rx.isSome) = true := by
    induction txs generalizing k with
    | nil => rfl
    | cons tx txs ih =>
      rw [List.length_cons] at hk
      simp only [sentFrom, List.all_cons, Bool.and_eq_true]
      exact ⟨answerAt_isSome hlen hreturn (by omega) _, ih (k + 1) (by omega)⟩
  exact hsent txs 0 (by omega)

/-- The samples of a path lie within the deadlines of its phases (41_transceive.md R147, R151). -/
def InTime : Heard → Prop
  | .silent => True
  | .started j => j ≤ 1
  | .empty j k | .frame j k => j ≤ 1 ∧ k ≤ 50

/-- No path makes more than 117 exchanges (70_reset_and_hazards.md R336). -/
theorem path_length_le {h : Heard} (hh : InTime h) (f : Bytes) (s : State) : (h.path f s).length ≤ 117 := by
  cases h <;> simp [Heard.path, startTx_length, irqTx_length, readTx, InTime] at hh ⊢ <;> omega

/-- Of `n` samples none shows the flag, or one is the first that does. -/
theorem first_hit (sample : Nat → Word) (n : Nat) :
    (∀ a < n, sample a = 0) ∨ ∃ j < n, (∀ a < j, sample a = 0) ∧ sample j ≠ 0 := by
  by_cases h : ∃ j, j < n ∧ sample j ≠ 0
  · obtain ⟨hj, hhit⟩ := Nat.find_spec h
    refine .inr ⟨Nat.find h, hj, fun a ha => ?_, hhit⟩
    by_contra hne
    exact Nat.find_min h ha ⟨ha.trans hj, hne⟩
  · exact .inl fun a ha => by_contra fun hne => h ⟨a, ha, hne⟩

/-- Settles O29: by the first sample of phase A that hits, the first of phase B, and the received count. -/
theorem pathsCover : Obligations.PathsCover := by
  intro f s hlen hreturn hts
  have hret {h : Heard} (hh : InTime h) : s.allReturn (h.path f s) = true :=
    allReturn_of_tape hlen hreturn (path_length_le hh f s)
  rcases first_hit (fun a => valueAt (7 + 2 * a) s &&& 0x00004000) 2 with hmiss | ⟨j, hj, hbefore, hhit⟩
  · exact ⟨.silent, hret trivial, hts, hmiss⟩
  · have hj : j ≤ 1 := Nat.le_of_lt_succ hj
    rcases first_hit (fun b => valueAt (9 + 2 * j + 2 * b) s &&& 0x00000001) 51 with hmiss | ⟨k, hk, hbefore', hhit'⟩
    · exact ⟨.started j, hret hj, hts, ⟨hj, hbefore, hhit⟩, hmiss⟩
    · have hk : k ≤ 50 := Nat.le_of_lt_succ hk
      by_cases hcount : countAt j k s = 0
      · exact ⟨.empty j k, hret ⟨hj, hk⟩, hts, ⟨hj, hbefore, hhit⟩, ⟨hk, hbefore', hhit'⟩, hcount⟩
      · exact ⟨.frame j k, hret ⟨hj, hk⟩, hts, ⟨hj, hbefore, hhit⟩, ⟨hk, hbefore', hhit'⟩, hcount⟩

/-! ## The WAIT_TRANSMIT check fails -/

/-- X_CHK (R143, R144), where the RF_STATUS read shows another state than WAIT_TRANSMIT. -/
theorem xChk_refused {s : State} {x : XRegs} (hr : s.rst = []) (h : s.allReturn (readTx 0x1D) = true)
    (hv : (valueAt 1 s).extractLsb' 24 3 ≠ (1 : BitVec 3)) :
    xChk (s.withX x) = (setMode Config.modeIdle
      { (s.afterExchanges (readTx 0x1D)).withX { x with ts := (valueAt 1 s).extractLsb' 24 3 } with
        fault := .protocolState }).andThen protocolStateError := by
  obtain ⟨hread, hvalue⟩ := regRead_ok (x := x) 0x1D hr h
  rw [xChk, show regRead Config.regRfStatus (s.withX x) = _ from hread, Port.andThen, hvalue]
  exact if_neg hv

/-- The state in which a refused transceive returns to IDLE. -/
def refusing (t : State) : State :=
  { t with rsp_valid := false, st := .xChk, fault := .protocolState, chip_img := preparedImg t.chip_img }

theorem afterExchanges_refusing (l : List Bytes) (t : State) :
    (refusing t).afterExchanges l = refusing (t.afterExchanges l) := by
  simp only [State.afterExchanges, State.sent, sentFrom_congr (s := refusing t) (t := t) rfl rfl]
  rfl

/-- A request whose preparation returned and showed the transceive state `v`. -/
def showing (f : Bytes) (v : BitVec 3) (s : State) : State :=
  { s with txf := f, ts := v, tag_mem := knownAfterFrame f s.tag_mem }

/-- A transceive whose preparation returns and does not show WAIT_TRANSMIT (41_transceive.md R141 to R144). -/
theorem refused_run (n : Nat) {f : Bytes} {s : State} (hr : s.rst = []) (h : s.allReturn prepareTx = true)
    (hv : (valueAt 4 s).extractLsb' 24 3 ≠ (1 : BitVec 3)) :
    runSeq (n + 3) (enterTransceive f (accepted s)) = runSeq n ((setMode Config.modeIdle
      (refusing ((showing f ((valueAt 4 s).extractLsb' 24 3) s).afterExchanges prepareTx))).andThen
        protocolStateError) := by
  have hprepare : prepareTx = [clearIrqTx] ++ ([modeAndTx, modeOrTx] ++ readTx 0x1D) := rfl
  have hret : (enterTransceive f (accepted s)).allReturn prepareTx = true := h
  rw [hprepare, allReturn_append, allReturn_append, Bool.and_eq_true, Bool.and_eq_true] at hret
  obtain ⟨hclear, hmode, hread⟩ := hret
  refine Eq.trans (run_xClr_ok (s := enterTransceive f (accepted s)) (x := (enterTransceive f (accepted s)).xregs)
    (n + 2) rfl hr hclear) ?_
  refine Eq.trans (run_xMode_ok (n + 1) rfl hr hmode) ?_
  refine run_step n (by simp) hr (Eq.trans (xChk_refused hr hread ?_) ?_)
  · rw [valueAt_afterExchanges, valueAt_afterExchanges]
    exact hv
  · rw [valueAt_afterExchanges, valueAt_afterExchanges, ← afterExchanges_append, ← afterExchanges_append]
    simp only [State.afterExchanges, State.sent,
      sentFrom_congr (s := enterTransceive f (accepted s)) (t := s) rfl rfl]
    rfl

/-- The end of a refused transceive: its return to IDLE, or the failure of that exchange (60_exceptions.md R286,
R289). -/
theorem refused_end {t : State} (hs : t.rst = []) :
    (setMode Config.modeIdle (refusing t)).andThen protocolStateError = t.attempt [modeAndTx] fun u =>
      { u.faulted .protocolState { cls := .protocolStateError, data := [t.ts.setWidth 8] } with
        chip_img := idleImg (preparedImg u.chip_img) } := by
  have hret : (refusing t).allReturn [modeAndTx] = t.allReturn [modeAndTx] :=
    allReturn_congr (s := refusing t) (t := t) rfl rfl _
  rw [setMode_idle_eq (s := refusing t) hs, hret, afterExchanges_refusing, State.attempt, triedFrom_one]
  split <;> rfl

theorem attempt_append {l l' : List Bytes} {good : State → State} {s : State} (h : s.allReturn l = true) :
    s.attempt (l ++ l') good = (s.afterExchanges l).attempt l' good := by
  have htried : triedFrom 0 s (l ++ l') = l ++ triedFrom 0 (s.afterExchanges l) l' := by
    rw [triedFrom_append, triedFrom_afterExchanges]
    exact if_pos h
  simp only [State.attempt, allReturn_append, h, Bool.true_and, htried, afterExchanges_append]

theorem refused_not_running (txs : List Bytes) (r : Rsp) (img : State → List (Nat × ChipReg)) (s : State) :
    (s.attempt txs fun t => { t.faulted .protocolState r with chip_img := img t }).running = false := by
  rw [State.attempt]
  split <;> rfl

/-- Settles O30: the preparation, and the end of a refused transceive. -/
theorem notWaitTransmit : Obligations.NotWaitTransmit := by
  intro i f s hf hr hs hret hts
  have hrst : (s.startedBy i).rst = [] := (startedBy_rst i s).trans hs
  have hvalue : valueAt 4 (s.startedBy i) = valueAt 4 s := valueAt_congr (startedBy_chip_in i s) (startedBy_nx i s) 4
  have hret' : (s.startedBy i).allReturn prepareTx = true := by
    rwa [allReturn_congr (startedBy_chip_in i s) (startedBy_nx i s)]
  have hshowing (v : BitVec 3) : showing f v (s.startedBy i) =
      { s.startedBy i with txf := f, ts := v, tag_mem := knownAfterFrame f s.tag_mem } := by
    rw [showing, startedBy_tag_mem]
  have hrun := refused_run (Config.maxSteps - 4) (f := f) hrst hret' (hvalue ▸ hts)
  rw [refused_end (t := (showing f _ (s.startedBy i)).afterExchanges prepareTx) hrst,
    runSeq_idle (refused_not_running ..), ← attempt_append (s := showing f _ (s.startedBy i)) hret', hvalue,
    hshowing] at hrun
  rw [exec_frame hf hr hs]
  exact congrArg _ hrun

end Sys2Proof.Proofs
end

section
/-!
PROOFS. Replies and messages (43_iso15693_decoder.md): the arbitration of R220 in its three outcomes, the parses of R229
to R233 on top of it, and the texts of R224 to R226.
-/

namespace Sys2Proof.Proofs

open Sys2Proof Sys2Proof.Machine

/-! ## The arbitration -/

theorem plainReply_tagError {fl : Byte} (hff : fl ≠ 0xFF) (h0 : fl ≠ 0x00) (pl : Bytes) :
    plainReply fl pl = { cls := .tagError, code := pl.head?, flags := some fl, data := pl } := by
  rw [plainReply, if_neg hff, if_neg h0]

/-- R220: whatever the outcome, the reply keeps the flags and the payload it was made from. -/
theorem plainReply_keeps (fl : Byte) (pl : Bytes) :
    (plainReply fl pl).flags = some fl ∧ (plainReply fl pl).data = pl := by
  rcases eq_or_ne fl 0xFF with rfl | hff
  · exact ⟨rfl, rfl⟩
  · rcases eq_or_ne fl 0x00 with rfl | h0
    · exact ⟨rfl, rfl⟩
    · simp [plainReply_tagError hff h0]

/-- Settles O46: one outcome of the arbitration for each of its tests. -/
theorem arbitration : Obligations.Arbitration := by
  intro fl pl
  rw [arbitrate_eq]
  obtain ⟨hflags, hdata⟩ := plainReply_keeps fl pl
  refine ⟨hflags, hdata, ?_, ?_, ?_⟩
  · rintro rfl
    exact ⟨rfl, rfl⟩
  · intro hff h0
    rw [plainReply_tagError hff h0]
    refine ⟨rfl, ?_, ?_⟩
    · rintro c rest rfl
      rfl
    · rintro rfl
      rfl
  · rintro rfl
    exact ⟨rfl, rfl⟩

/-! ## INVENTORY -/

theorem inventoryReply_short {pl : Bytes} (h : pl.length < 9) :
    inventoryReply 0x00 pl = { cls := .noAnswer, flags := some 0x00, data := pl } := by
  unfold inventoryReply
  rw [if_neg (not_not_intro rfl)]
  split
  · simp only [List.length_cons] at h
    omega
  · rfl

/-- The mnemonic and ISO_CMD with its command byte take the parse of R229. -/
theorem decodeReply_inventory {flags : Byte} {uid : Option Uid} {args : IsoArgs} {i : Instr}
    (hi : i ∈ [Instr.inventory, .isoCmd 0x01 flags uid args]) : decodeReply i = inventoryReply := by
  simp only [List.mem_cons, List.not_mem_nil, or_false] at hi
  rcases hi with rfl | rfl <;> exact funext₂ parseInventory_eq

/-- Settles O47, by the parse of R229. -/
theorem shortInventory : Obligations.ShortInventory := by
  intro flags uid args pl hpl i hi
  simp only [decodeReply_inventory hi, inventoryReply_short hpl, and_self]

/-! ## WRITE_MULTIPLE_BLOCK -/

theorem multiWriteReply_zero (count : Nat) (pl : Bytes) :
    (multiWriteReply count 0x00 pl).cls = if pl.length = count then .ok else .multiWriteMismatch := by
  unfold multiWriteReply
  by_cases h : pl.length = count
  · rw [if_neg fun hmismatch => hmismatch.2 h, if_pos h, plainReply_zero]
  · rw [if_pos ⟨rfl, h⟩, if_neg h]

theorem multiWriteReply_of_ne_zero {fl : Byte} (h : fl ≠ 0x00) (count : Nat) (pl : Bytes) :
    multiWriteReply count fl pl = plainReply fl pl :=
  if_neg fun hmismatch => h hmismatch.1

/-- The mnemonic and ISO_CMD with its command byte and operands take the parse of R233. -/
theorem decodeReply_writeMultipleBlock {flags first : Byte} {uid : Option Uid} {count : Nat} {data : Bytes} {i : Instr}
    (hi : i ∈ [Instr.writeMultipleBlock flags uid first count data,
      .isoCmd 0x24 flags uid (.rangeData first count data)]) :
    decodeReply i = multiWriteReply count := by
  simp only [List.mem_cons, List.not_mem_nil, or_false] at hi
  rcases hi with rfl | rfl <;> exact funext₂ (parseMultiWrite_eq count)

/-- Settles O48: the count decides between the two outcomes of flags 0. -/
theorem multiWriteReply : Obligations.MultiWriteReply := by
  intro flags uid first count data fl pl i hi
  rw [decodeReply_writeMultipleBlock hi, arbitrate_eq]
  refine ⟨?_, ?_, ?_⟩
  · rintro rfl
    exact multiWriteReply_zero count pl
  · rintro rfl
    exact ⟨multiWriteReply_of_ne_zero (by decide) count pl, rfl⟩
  · intro h0 hff
    rw [multiWriteReply_of_ne_zero h0, plainReply_tagError hff h0]
    exact ⟨rfl, rfl⟩

/-! ## GET_SYSTEM_INFORMATION -/

/-- Where the AFI stands, if announced (30_encoding.md R99). -/
def afiAt (f : Byte) : Nat := if f.getLsbD 0 then 10 else 9

/-- Where the memory size's two bytes stand, if announced (30_encoding.md R99). -/
def sizeAt (f : Byte) : Nat := if f.getLsbD 1 then afiAt f + 1 else afiAt f

theorem infoLength_eq (f : Byte) : infoLength f = sizeAt f + if f.getLsbD 2 then 2 else 0 := by
  unfold infoLength sizeAt afiAt
  split_ifs <;> rfl

/-- The record of a payload whose infoFlags are `f` (R231): each announced field at its place. -/
def announced (f : Byte) (pl : Bytes) : TagInfo where
  dsfid := if f.getLsbD 0 then pl.getD 9 0 else 0
  afi := if f.getLsbD 1 then pl.getD (afiAt f) 0 else 0
  numBlocks := if f.getLsbD 2 then (pl.getD (sizeAt f) 0).toNat + 1 else 0
  blockSize := if f.getLsbD 2 then (pl.getD (sizeAt f + 1) 0).toNat % 32 + 1 else 0

theorem systemInfoReply_short {f : Byte} {rest : Bytes} (h : (f :: rest).length < infoLength f) :
    systemInfoReply 0x00 (f :: rest) = { cls := .shortResponse, flags := some 0x00, data := f :: rest } := by
  rw [systemInfoReply, if_neg (not_not_intro rfl)]
  exact if_pos (.inr h)

theorem systemInfoReply_whole {f : Byte} {rest : Bytes} (h : infoLength f ≤ (f :: rest).length) :
    systemInfoReply 0x00 (f :: rest) =
      { cls := .ok, flags := some 0x00, data := f :: rest, info := some (announced f (f :: rest)) } := by
  have hlong : ¬ (f :: rest = [] ∨ (f :: rest).length < infoLength f) := by
    simpa using h
  rw [systemInfoReply, if_neg (not_not_intro rfl)]
  refine (if_neg hlong).trans ?_
  cases hsize : f.getLsbD 2 <;>
    simp only [List.headD_cons, announced, afiAt, infoLength_eq, hsize, Bool.false_eq_true, if_true, if_false] <;> rfl

theorem systemInfoReply_of_ne_zero {fl : Byte} (h : fl ≠ 0x00) (pl : Bytes) :
    systemInfoReply fl pl = plainReply fl pl := if_pos h

/-- With flags 0 the reply keeps the flags and the payload (R220), and has no UID. -/
theorem systemInfoReply_keeps (pl : Bytes) :
    (systemInfoReply 0x00 pl).flags = some 0x00 ∧ (systemInfoReply 0x00 pl).data = pl ∧
      (systemInfoReply 0x00 pl).uid = none := by
  rcases pl with _ | ⟨f, rest⟩
  · exact ⟨rfl, rfl, rfl⟩
  · rcases Nat.lt_or_ge (f :: rest).length (infoLength f) with h | h
    · rw [systemInfoReply_short h]
      exact ⟨rfl, rfl, rfl⟩
    · rw [systemInfoReply_whole h]
      exact ⟨rfl, rfl, rfl⟩

/-- The mnemonic and ISO_CMD with its command byte take the parse of R230. -/
theorem decodeReply_getSystemInformation {flags : Byte} {uid : Option Uid} {args : IsoArgs} {i : Instr}
    (hi : i ∈ [Instr.getSystemInformation flags uid, .isoCmd 0x2B flags uid args]) :
    decodeReply i = systemInfoReply := by
  simp only [List.mem_cons, List.not_mem_nil, or_false] at hi
  rcases hi with rfl | rfl <;> exact funext₂ parseSystemInfo_eq

theorem getElem?_eq_some_getD {pl : Bytes} {n : Nat} (h : n < pl.length) : pl[n]? = some (pl.getD n 0) := by
  rw [List.getElem?_eq_getElem h, List.getD_eq_getElem pl 0 h]

section Announced

variable {f : Byte} {pl : Bytes} (h : infoLength f ≤ pl.length)

include h

theorem announced_dsfid (hf : f.getLsbD 0 = true) : pl[9]? = some (announced f pl).dsfid := by
  have hlen : 9 < pl.length := by
    simp only [infoLength, hf, if_true] at h
    omega
  simpa only [announced, hf, if_true] using getElem?_eq_some_getD hlen

theorem announced_afi (hf : f.getLsbD 1 = true) : pl[afiAt f]? = some (announced f pl).afi := by
  have hlen : afiAt f < pl.length := by
    simp only [infoLength_eq, sizeAt, hf, if_true] at h
    omega
  simpa only [announced, hf, if_true] using getElem?_eq_some_getD hlen

/-- The number of blocks and the block size are coded one less than they are, the latter in five bits (R231). -/
theorem announced_size (hf : f.getLsbD 2 = true) :
    ∃ n b : Byte, pl[sizeAt f]? = some n ∧ pl[sizeAt f + 1]? = some b ∧
      (announced f pl).numBlocks = n.toNat + 1 ∧ (announced f pl).blockSize = b.toNat % 32 + 1 := by
  have hlen : sizeAt f + 2 ≤ pl.length := by
    simpa only [infoLength_eq, hf, if_true] using h
  refine ⟨_, _, getElem?_eq_some_getD (by omega), getElem?_eq_some_getD (by omega), ?_⟩
  simp only [announced, hf, if_true, and_self]

end Announced

/-- Settles O49: the announced bytes are all there or the reply is short. -/
theorem systemInfoReply : Obligations.SystemInfoReply := by
  intro flags uid args i hi
  rw [decodeReply_getSystemInformation hi]
  refine ⟨fun fl pl h => ?_, systemInfoReply_keeps, ⟨rfl, rfl⟩, fun f rest => ⟨fun h => ?_, fun h => ?_⟩⟩
  · rw [systemInfoReply_of_ne_zero h, arbitrate_eq]
  · rw [systemInfoReply_short h]
    exact ⟨rfl, rfl⟩
  · refine ⟨by rw [systemInfoReply_whole h], announced f (f :: rest), by rw [systemInfoReply_whole h],
      announced_dsfid h, fun hf => ?_, announced_afi h, fun hf => ?_, fun hf => ?_, fun hf => ?_⟩
    · simp only [announced, hf, Bool.false_eq_true, if_false]
    · simp only [announced, hf, Bool.false_eq_true, if_false]
    · obtain ⟨n, b, hn, hb, hblocks, hsize⟩ := announced_size h hf
      exact ⟨n, b, hn, hb, hblocks, hsize, by omega, by omega, by omega, by omega⟩
    · simp only [announced, hf, Bool.false_eq_true, if_false, and_self]

/-! ## Messages -/

/-- A hexadecimal digit is one character of R225's sixteen. -/
theorem hexDigit_toList : ∀ d < 16, ∃ c : Char,
    "0123456789ABCDEF".toList[d]? = some c ∧ (hexDigit d).toList = [c] := by
  intro d h
  interval_cases d <;> exact ⟨_, rfl, rfl⟩

theorem hexDigit_eq_repr {d : Nat} (h : d < 10) : hexDigit d = d.repr := by
  interval_cases d <;> rfl

/-- The model writes a block index as `toString` does. -/
theorem decimal_eq_repr {n : Nat} (h : n < 256) : decimal n = n.repr := by
  have hunits : hexDigit (n % 10) = (n % 10).repr := hexDigit_eq_repr (by omega)
  have htens : hexDigit (n / 10 % 10) = (n / 10 % 10).repr := hexDigit_eq_repr (by omega)
  have hhundreds : hexDigit (n / 100) = (n / 100).repr := hexDigit_eq_repr (by omega)
  rw [decimal, hunits, htens, hhundreds]
  rcases Nat.lt_or_ge n 10 with h10 | h10
  · rw [if_neg (by omega), if_neg (by omega), Nat.mod_eq_of_lt h10]
    rfl
  · rw [if_pos h10, Nat.repr_eq_repr_append_repr h10]
    rcases Nat.lt_or_ge n 100 with h100 | h100
    · rw [if_neg (by omega), Nat.mod_eq_of_lt (by omega : n / 10 < 10)]
      rfl
    · rw [if_pos h100, Nat.repr_eq_repr_append_repr (n := n / 10) (by omega), Nat.div_div_eq_div_mul]

theorem rawHex_toList (c : Byte) : ∃ hi lo : Char, "0123456789ABCDEF".toList[c.toNat / 16]? = some hi ∧
    "0123456789ABCDEF".toList[c.toNat % 16]? = some lo ∧ (rawHex c).toList = ['0', 'x', hi, lo] := by
  obtain ⟨hi, hhi, hhiText⟩ := hexDigit_toList (c.toNat / 16) (by omega)
  obtain ⟨lo, hlo, hloText⟩ := hexDigit_toList (c.toNat % 16) (by omega)
  refine ⟨hi, lo, hhi, hlo, ?_⟩
  simp [rawHex, hhiText, hloText]

/-- R225: a code outside the table of R224 has no text of its own. -/
theorem errorText_unlisted {c : Byte} (h : c ∉ [0x01, 0x02, 0x03, 0x0F, 0x10, 0x11, 0x12, 0x13, (0x14 : Byte)]) :
    errorText c = rawHex c := by
  unfold errorText
  split
  case h_10 => rfl
  all_goals
    rename_i hc
    exact absurd (eq_ofNat_of_toNat hc ▸ h) (by decide)

theorem msg_writeBlockError (code : Option Byte) (b : Byte) :
    msg .writeBlockError code (some b) = "block " ++ toString b.toNat ++ ": " ++ codeText code := by
  have hdecimal : decimal b.toNat = toString b.toNat := decimal_eq_repr b.isLt
  simp only [msg, Option.getD_some, hdecimal]

theorem msg_writeBlockError_no_code (b : Byte) :
    msg .writeBlockError none (some b) = "block " ++ toString b.toNat ++ ": no error code" := by
  rw [msg_writeBlockError, String.append_assoc]
  rfl

/-- Settles O50: the messages by class, then the texts by code. -/
theorem messages : Obligations.Messages := by
  refine ⟨fun code blk => ⟨rfl, fun _ => rfl, rfl, fun b c => msg_writeBlockError (some c) b,
    msg_writeBlockError_no_code, rfl, rfl, rfl, rfl, rfl, rfl, rfl, rfl⟩,
    rfl, rfl, rfl, rfl, rfl, rfl, rfl, rfl, rfl, fun c hc => ?_⟩
  rw [errorText_unlisted hc]
  exact rawHex_toList c

end Sys2Proof.Proofs
end

section
/-!
PROOFS. Validation and the mapper's arithmetic: the requests that end before any exchange (30_encoding.md R88;
44_tag_memory.md R251 to R255), and the blocks that a byte range covers (R252, R253, R258).
-/

namespace Sys2Proof.Proofs

open Sys2Proof Sys2Proof.Machine

/-! ## The covered blocks -/

/-- Covered blocks end where the range, rounded up to whole blocks, ends. -/
theorem div_add_blocksOf {bs : Nat} (h : 0 < bs) (offset len : Nat) :
    offset / bs + blocksOf bs offset len = (offset + len) ⌈/⌉ bs := by
  have hparts : offset + len + bs - 1 = (offset % bs + len + bs - 1) + bs * (offset / bs) := by
    have := Nat.div_add_mod offset bs
    omega
  rw [Nat.ceilDiv_eq_add_pred_div, hparts, Nat.add_mul_div_left _ _ h, blocksOf, Nat.add_comm]

/-- What 44_tag_memory.md R251, R253 and R254 check. -/
theorem memReaches_iff {tag : TagRec} {offset len : Nat} : memReaches tag offset len = true ↔
    (1 ≤ tag.bs ∧ tag.bs ≤ 32) ∧ (1 ≤ tag.nb ∧ tag.nb ≤ 256) ∧ offset + len ≤ tag.bs * tag.nb ∧ 1 ≤ len := by
  simp only [memReaches, geometryFits, rangeFits, Bool.and_eq_true, decide_eq_true_eq]
  tauto

section Reaches

variable {tag : TagRec} {offset len : Nat} (h : memReaches tag offset len = true)

include h

theorem one_le_blocksOf : 1 ≤ blocksOf tag.bs offset len := by
  obtain ⟨⟨hbs, -⟩, -, -, hlen⟩ := memReaches_iff.1 h
  exact Nat.div_pos (by omega) hbs

/-- A tag has at most 8192 bytes (44_tag_memory.md R251). -/
theorem length_le_of_memReaches : len ≤ 8192 := by
  obtain ⟨⟨-, hbs⟩, ⟨-, hnb⟩, hrange, -⟩ := memReaches_iff.1 h
  have : tag.bs * tag.nb ≤ 32 * 256 := Nat.mul_le_mul hbs hnb
  omega

/-- The covered blocks lie in the tag. -/
theorem lastBlock_le : offset / tag.bs + blocksOf tag.bs offset len ≤ tag.nb := by
  obtain ⟨⟨hbs, -⟩, -, hrange, -⟩ := memReaches_iff.1 h
  rw [div_add_blocksOf hbs]
  exact (ceilDiv_le_iff_le_mul hbs).2 hrange

/-- They cover the range. -/
theorem range_le : offset + len ≤ (offset / tag.bs + blocksOf tag.bs offset len) * tag.bs := by
  obtain ⟨⟨hbs, -⟩, -⟩ := memReaches_iff.1 h
  rw [div_add_blocksOf hbs, Nat.mul_comm]
  exact (ceilDiv_le_iff_le_mul hbs).1 le_rfl

end Reaches

/-- Settles O40: the formulas are the definition's, the rest is `lastBlock_le` and `range_le`. -/
theorem mapperCovers : Obligations.MapperCovers := by
  intro tag offset len h p
  obtain ⟨-, ⟨-, hnb⟩, -⟩ := memReaches_iff.1 h
  have hstart : p.startBlock = offset / tag.bs := mapPlan_startBlock
  have hnblk : p.nblk = blocksOf tag.bs offset len := mapPlan_nblk
  have hlast := lastBlock_le h
  refine ⟨rfl, rfl, rfl, rfl, ?_⟩
  rw [hstart, hnblk]
  exact ⟨one_le_blocksOf h, by omega, hlast, Nat.div_mul_le_self offset tag.bs, range_le h⟩

/-! ## Requests that end in VALIDATE -/

/-- An ISO command is refused for its operands alone (30_encoding.md R88). -/
theorem earlyEnd_of_iso {i : Instr} {r : IsoReq} (h : isoReqOf i = some r) :
    earlyEnd i = if isoReqOk r then none else some .badRequest := by
  have hfirst : earlyEnd i = if isChipCommand i || (frameOf i).isSome then none else some .badRequest := by
    cases i <;> cases h <;> rfl
  rw [hfirst, isChipCommand_of_isoReqOf h, frameOf_iso h]
  cases isoReqOk r <;> rfl

/-- TRANSCEIVE, ISO_RAW and RAW are refused where they have no frame to send. -/
theorem refused_iff {o : Option Bytes} {cls : Cls} :
    (if false || o.isSome then none else some Cls.badRequest) = some cls ↔ o = none ∧ cls = .badRequest := by
  cases o <;> simp [eq_comm]

theorem startRaw_refused {code flags : Byte} {uid : Option Uid} {raw : Bytes}
    (h : fitting (isoBytes code flags uid raw) = none) (t : State) : startRaw code flags uid raw t = badRequest t := by
  have hframe : rawFrame code flags uid raw = isoBytes code flags uid raw := by rw [rawFrame, isoFrame_eq]; rfl
  have hlen : ¬ (isoBytes code flags uid raw).length ≤ 260 := by
    intro hlen
    rw [fitting, if_pos hlen] at h
    cases h
  rw [startRaw, hframe, show Config.maxTxFrame = 260 from rfl, decide_eq_false hlen]
  rfl

theorem startTransceive_refused {f : Bytes} (h : frameOf (.transceive f) = none) (t : State) :
    startRf (frameOk f) f t = badRequest t := by
  have hlong : 1 ≤ f.length → ¬ f.length ≤ 260 := by simpa [frameOf, fitting] using h
  have hno : frameOk f = false := by
    rw [frameOk, Bool.and_eq_false_imp]
    exact fun hne => decide_eq_false (hlong (of_decide_eq_true hne))
  rw [hno]
  rfl

theorem startMemRead_ends {tag : TagRec} {offset length : Half} {cls : Cls}
    (h : memEarlyEnd tag offset.toNat length.toNat = some cls) (t : State) :
    startMemRead tag offset length t = publish { cls := cls } t := by
  unfold memEarlyEnd at h
  unfold startMemRead
  rw [geometryOk_eq, show rangeOk tag offset.toNat length.toNat = rangeFits tag offset.toNat length.toNat from rfl]
  have hempty : length = 0 ↔ length.toNat = 0 := BitVec.toNat_inj.symm
  simp only [hempty]
  split_ifs at h ⊢ <;> cases h <;> rfl

theorem startMemWrite_ends {tag : TagRec} {offset : Half} {data : Bytes} {cls : Cls}
    (h : memEarlyEnd tag offset.toNat data.length = some cls) (t : State) :
    startMemWrite tag offset data t = publish { cls := cls } t := by
  unfold memEarlyEnd at h
  unfold startMemWrite
  rw [geometryOk_eq, show rangeOk tag offset.toNat data.length = rangeFits tag offset.toNat data.length from rfl]
  simp only [← List.length_eq_zero_iff]
  split_ifs at h ⊢ <;> cases h <;> rfl

theorem dataLengthOk_eq (data : Bytes) : dataLengthOk data = decide (data.length ≤ 65535) :=
  decide_eq_decide.2 (Nat.lt_succ_iff (n := 65535))

/-- VALIDATE publishes the class of an early end, and nothing else. -/
theorem validate_earlyEnd {i : Instr} {cls : Cls} {t : State} (h : earlyEnd i = some cls) (hq : t.rq = .op i) :
    validate t = publish { cls := cls } t := by
  cases hr : isoReqOf i with
  | some r =>
    rw [earlyEnd_of_iso hr] at h
    split_ifs at h with hok
    cases h
    rw [validate_iso hr hq, startIso, Bool.eq_false_iff.2 hok]
    rfl
  | none =>
    unfold validate
    simp only [hq, hr]
    cases i
    case transceive =>
      obtain ⟨hf, rfl⟩ := refused_iff.1 h
      exact startTransceive_refused hf t
    case isoRaw | raw =>
      obtain ⟨hf, rfl⟩ := refused_iff.1 h
      exact startRaw_refused hf t
    case memRead => exact startMemRead_ends h t
    case memWrite tag offset data =>
      rw [earlyEnd_memWrite] at h
      simp only [dataLengthOk_eq, decide_eq_true_eq]
      split_ifs at h with hlen
      · cases h
        rw [if_neg (Nat.not_le.2 hlen)]
        rfl
      · rw [if_pos (Nat.not_lt.1 hlen)]
        exact startMemWrite_ends h t
    case eepromRead addr len =>
      obtain ⟨rfl, hcls⟩ := Option.ite_none_right_eq_some.1 h
      cases hcls
      have hno : decide (1 ≤ (0 : Byte).toNat) = false := rfl
      simp only [hno, startCodec, Bool.false_eq_true, if_false, badRequest]
    case chipIdle | regWrite | regOr | regAnd | regRead => cases h
    case writeRegister | writeRegisterOrMask | writeRegisterAndMask => cases h
    case readRegister | readEeprom | sendData | readData => cases h
    all_goals cases hr

theorem isChipCommand_of_earlyEnd {i : Instr} {cls : Cls} (h : earlyEnd i = some cls) : isChipCommand i = false := by
  cases i <;> first | rfl | cases h

/-- Settles O22: VALIDATE answers the request, and so ends it. -/
theorem earlyEnds : Obligations.EarlyEnds := by
  intro i cls s h hr hrst
  rw [exec_request (isChipCommand_of_earlyEnd h)]
  exact congrArg _ (request_of_validate_publishes hr hrst (validate_earlyEnd h rfl))

end Sys2Proof.Proofs
end

section
/-!
PROOFS. The chunks of a MEM_WRITE (44_tag_memory.md R259 to R262): the padded data and its chunks, the mapper's
registers while chunk `c` is being written, what M_WCHUNK does with the chunk's reply, and what it leaves of tag memory.
-/

namespace Sys2Proof.Proofs

open Sys2Proof Sys2Proof.Machine

/-! ## The padded data -/

/-- The offset in the first block and the data fit the covered blocks. -/
theorem skip_add_le {tag : TagRec} {offset len : Nat} (h : memReaches tag offset len = true) :
    offset % tag.bs + len ≤ blocksOf tag.bs offset len * tag.bs := by
  have hrange := range_le h
  have hsplit := Nat.div_add_mod' offset tag.bs
  rw [Nat.add_mul] at hrange
  omega

theorem paddedData_eq (bs offset : Nat) (data : Bytes) :
    paddedData (mapPlan bs offset data.length) data = paddedBytes bs offset data := by
  have hskip : (mapPlan bs offset data.length).skip = offset % bs := rfl
  have htotal : (mapPlan bs offset data.length).totalBytes = blocksOf bs offset data.length * bs := by
    simp only [mapPlan, roundUp, blocksOf, Nat.add_comm (offset % bs)]
  rw [paddedData, hskip, htotal, Nat.sub_sub]
  rfl

theorem chunkOf_paddedBytes (bs offset : Nat) (data : Bytes) (c : Nat) :
    chunkOf bs c (paddedBytes bs offset data) = chunkBytes bs offset data c := by
  rw [chunkOf, slice, Nat.succ_mul, Nat.add_sub_cancel_left]
  rfl

theorem paddedBytes_length {tag : TagRec} {offset : Nat} {data : Bytes}
    (h : memReaches tag offset data.length = true) :
    (paddedBytes tag.bs offset data).length = blocksOf tag.bs offset data.length * tag.bs := by
  have hfit := skip_add_le h
  simp only [paddedBytes, List.length_append, List.length_replicate]
  omega

/-- Each covered block has a whole chunk. -/
theorem chunkBytes_length {tag : TagRec} {offset : Nat} {data : Bytes} {c : Nat}
    (h : memReaches tag offset data.length = true) (hc : c < blocksOf tag.bs offset data.length) :
    (chunkBytes tag.bs offset data c).length = tag.bs := by
  have hblock : (c + 1) * tag.bs ≤ blocksOf tag.bs offset data.length * tag.bs := Nat.mul_le_mul_right _ hc
  rw [Nat.succ_mul] at hblock
  rw [chunkBytes, List.length_take, List.length_drop, paddedBytes_length h]
  omega

theorem chunkBytes_getElem? (bs offset : Nat) (data : Bytes) (c : Nat) {k : Nat} (hk : k < bs) :
    (chunkBytes bs offset data c)[k]? = (paddedBytes bs offset data)[c * bs + k]? := by
  rw [chunkBytes, List.getElem?_take_of_lt hk, List.getElem?_drop]

/-- The padded data, byte by byte. -/
theorem paddedBytes_getElem? {tag : TagRec} {offset : Nat} {data : Bytes} {x : Nat}
    (h : memReaches tag offset data.length = true) (hx : x < blocksOf tag.bs offset data.length * tag.bs) :
    (paddedBytes tag.bs offset data)[x]? =
      some (if offset % tag.bs ≤ x ∧ x < offset % tag.bs + data.length then data.getD (x - offset % tag.bs) 0
        else 0) := by
  have hfit := skip_add_le h
  simp only [paddedBytes, List.getElem?_append, List.length_append, List.length_replicate]
  split_ifs with hdata hskip hin hin
  · omega
  · exact List.getElem?_replicate_of_lt hskip
  · exact getElem?_eq_some_getD (by omega)
  · omega
  · omega
  · exact List.getElem?_replicate_of_lt (by omega)

/-! ## Tag memory -/

section Memory

variable {tag : TagRec} {offset : Half} {data : Bytes}

/-- The first `m` covered blocks hold their chunks, and every other address of every tag reads as before. -/
structure Filled (tag : TagRec) (offset : Half) (data : Bytes) (m : Nat) (before after : Memory) : Prop where
  chunks : ∀ c k : Nat, c < m → k < tag.bs →
    memRead (blockAddr tag (offset.toNat / tag.bs + c) + k) after = (chunkBytes tag.bs offset.toNat data c)[k]?
  others : ∀ a : Nat, (∀ c : Nat, c < m → ¬ inBlock tag (offset.toNat / tag.bs + c) a) →
    memRead a after = memRead a before

theorem filled_zero (m : Memory) : Filled tag offset data 0 m m :=
  ⟨fun _ _ hc => absurd hc (Nat.not_lt_zero _), fun _ _ => rfl⟩

theorem blocksStored_zero (m : Memory) : blocksStored tag offset data 0 m m :=
  ⟨Nat.zero_le _, fun _ _ hc => absurd hc (Nat.not_lt_zero _), fun _ _ => rfl, .inr ⟨rfl, rfl⟩⟩

/-- All blocks hold their chunks. -/
theorem Filled.stored {before after : Memory} (hf : Filled tag offset data (writeBlocks tag offset data) before after) :
    blocksStored tag offset data (writeBlocks tag offset data) before after :=
  ⟨le_rfl, hf.chunks, fun a ha => hf.others a fun c hc => ha c hc.le hc, .inl fun _ hm => absurd hm (Nat.lt_irrefl _)⟩

theorem blockAddr_add (tag : TagRec) (b c : Nat) : blockAddr tag (b + c) = blockAddr tag b + 32 * c := by
  simp only [blockAddr, slotAddr]
  omega

/-- The addresses of a block, counted from the first block of the tag. -/
theorem inBlock_add (tag : TagRec) (b c a : Nat) :
    inBlock tag (b + c) a ↔ blockAddr tag b + 32 * c ≤ a ∧ a < blockAddr tag b + 32 * c + 32 := by
  rw [inBlock, blockAddr_add]

/-- A covered block is one of the 256 a frame can name. -/
theorem block_lt (h : memReaches tag offset.toNat data.length = true) {c : Nat}
    (hc : c < writeBlocks tag offset data) : offset.toNat / tag.bs + c < 256 := by
  obtain ⟨-, ⟨-, hnb⟩, -⟩ := memReaches_iff.1 h
  have hlast := lastBlock_le h
  rw [writeBlocks] at hc
  omega

theorem chunkTx_eq (tag : TagRec) (offset : Nat) (data : Bytes) (c : Nat) :
    chunkTx tag offset data c = isoBytes 0x21 0x02 (some tag.uid)
      (BitVec.ofNat 8 (offset / tag.bs + c) :: chunkBytes tag.bs offset data c) := rfl

variable (h : memReaches tag offset.toNat data.length = true)

include h

/-- The frame of a chunk makes its block unknown, and no other (20_memory.md R72). -/
theorem memRead_chunkTx {c : Nat} (hc : c < writeBlocks tag offset data) (a : Nat) (m : Memory)
    [Decidable (inBlock tag (offset.toNat / tag.bs + c) a)] :
    memRead a (knownAfterFrame (chunkTx tag offset.toNat data c) m) =
      if inBlock tag (offset.toNat / tag.bs + c) a then none else memRead a m := by
  have hb : (BitVec.ofNat 8 (offset.toNat / tag.bs + c)).toNat = offset.toNat / tag.bs + c :=
    Nat.mod_eq_of_lt (block_lt h hc)
  rw [chunkTx_eq]
  refine memRead_after_isoBytes (by decide) rfl a m ?_
  rw [inBlocks_some _ (by omega), slotAddr_succ, hb]
  rfl

/-- A chunk is started. -/
theorem Filled.forget {m : Nat} {before after : Memory} (hf : Filled tag offset data m before after)
    (hm : m < writeBlocks tag offset data) :
    blocksStored tag offset data m before (knownAfterFrame (chunkTx tag offset.toNat data m) after) := by
  classical
  obtain ⟨⟨-, hbs⟩, -⟩ := memReaches_iff.1 h
  refine ⟨hm.le, fun c k hc hk => ?_, fun a ha => ?_, .inl fun a _ ha => ?_⟩ <;> rw [memRead_chunkTx h hm]
  · rw [if_neg, hf.chunks c k hc hk]
    rw [blockAddr_add, inBlock_add]
    omega
  · rw [if_neg (ha m le_rfl hm)]
    exact hf.others a fun c hc => ha c hc.le (hc.trans hm)
  · exact if_pos ha

/-- A chunk is acknowledged. -/
theorem filled_memWrite {m : Nat} {before after : Memory} (hs : blocksStored tag offset data m before after)
    (hm : m < writeBlocks tag offset data) :
    Filled tag offset data (m + 1) before (memWrite (blockAddr tag (offset.toNat / tag.bs + m))
      (chunkBytes tag.bs offset.toNat data m) after) := by
  obtain ⟨⟨-, hbs⟩, -⟩ := memReaches_iff.1 h
  obtain ⟨-, hchunks, hothers, -⟩ := hs
  have hlen := chunkBytes_length h hm
  refine ⟨fun c k hc hk => ?_, fun a ha => ?_⟩ <;> rw [memRead_memWrite, hlen]
  · rcases Nat.lt_succ_iff_lt_or_eq.1 hc with hc | rfl
    · rw [if_neg, hchunks c k hc hk]
      simp only [blockAddr_add]
      omega
    · rw [if_pos ⟨Nat.le_add_right _ _, by omega⟩, Nat.add_sub_cancel_left]
  · rw [if_neg]
    · exact hothers a fun c hc _ => ha c (Nat.lt_succ_of_le hc)
    · have hout := ha m (Nat.lt_succ_self m)
      rw [inBlock] at hout
      omega

end Memory

/-! ## The mapper's registers -/

/-- A MEM_WRITE stands at chunk `c` (R259). -/
structure AtChunk (tag : TagRec) (offset : Half) (data : Bytes) (c : Nat) (s : State) : Prop where
  rq : s.rq = .op (.memWrite tag offset data)
  m_tag : s.m_tag = tag
  m_start : s.m_start = BitVec.ofNat 8 (offset.toNat / tag.bs)
  m_nblk : s.m_nblk = writeBlocks tag offset data
  m_idx : s.m_idx = c
  m_wbuf : s.m_wbuf = paddedBytes tag.bs offset.toNat data

/-- What `AtChunk` speaks of. -/
def mapperRegs (s : State) : Request × TagRec × Byte × Nat × Nat × Bytes :=
  (s.rq, s.m_tag, s.m_start, s.m_nblk, s.m_idx, s.m_wbuf)

/-- Chunk `m_idx` stored, as R262 has it. -/
def chunkStored (tag : TagRec) (offset : Half) (data : Bytes) (c : Nat) (s : State) : State :=
  { s with
    r_flags := some s.tflags
    m_idx := c + 1
    tag_mem := memWrite (blockAddr tag (offset.toNat / tag.bs + c)) (chunkBytes tag.bs offset.toNat data c) s.tag_mem }

section Chunk

variable {tag : TagRec} {offset : Half} {data : Bytes} {c : Nat} {s : State}

theorem AtChunk.congr {t : State} (hs : AtChunk tag offset data c s) (ht : mapperRegs t = mapperRegs s) :
    AtChunk tag offset data c t := by
  obtain ⟨hrq, htag, hstart, hnblk, hidx, hwbuf⟩ := hs
  simp only [mapperRegs, Prod.mk.injEq] at ht
  obtain ⟨hrq', htag', hstart', hnblk', hidx', hwbuf'⟩ := ht
  exact ⟨hrq'.trans hrq, htag'.trans htag, hstart'.trans hstart, hnblk'.trans hnblk, hidx'.trans hidx,
    hwbuf'.trans hwbuf⟩

theorem AtChunk.stored (hs : AtChunk tag offset data c s) :
    AtChunk tag offset data (c + 1) (chunkStored tag offset data c s) :=
  ⟨hs.rq, hs.m_tag, hs.m_start, hs.m_nblk, rfl, hs.m_wbuf⟩

theorem chunkFrame_eq (tag : TagRec) (offset : Nat) (data : Bytes) (c : Nat) :
    chunkFrame tag (offset / tag.bs + c) (chunkBytes tag.bs offset data c) = chunkTx tag offset data c := by
  have hcmd : (0x21 : Byte) ≠ 0x01 := by decide
  rw [chunkTx_eq]
  exact isoEncode_eq (r := ⟨0x21, 0x02, some tag.uid, .blockData _ _⟩) hcmd

theorem AtChunk.chunkOf (hs : AtChunk tag offset data c s) :
    chunkOf s.m_tag.bs s.m_idx s.m_wbuf = chunkBytes tag.bs offset.toNat data c := by
  rw [hs.m_tag, hs.m_idx, hs.m_wbuf, chunkOf_paddedBytes]

variable (h : memReaches tag offset.toNat data.length = true) (hs : AtChunk tag offset data c s)

include h hs

theorem AtChunk.chunkBlock : chunkBlock s = offset.toNat / tag.bs + c := by
  have hstart : (BitVec.ofNat 8 (offset.toNat / tag.bs)).toNat = offset.toNat / tag.bs :=
    Nat.mod_eq_of_lt (block_lt (c := 0) h (one_le_blocksOf h))
  rw [Machine.chunkBlock, hs.m_start, hs.m_idx, hstart]

theorem AtChunk.startChunk : startChunk s = enterTransceive (chunkTx tag offset.toNat data c) s := by
  rw [Machine.startChunk, hs.chunkBlock h, hs.chunkOf, hs.m_tag, chunkFrame_eq]

theorem AtChunk.chunkWritten : chunkWritten s = chunkStored tag offset data c s := by
  have hmem : memWrite (blockAddr s.m_tag (Machine.chunkBlock s)) (Machine.chunkOf s.m_tag.bs s.m_idx s.m_wbuf)
      s.tag_mem = memWrite (blockAddr tag (offset.toNat / tag.bs + c)) (chunkBytes tag.bs offset.toNat data c)
        s.tag_mem := by
    rw [hs.chunkBlock h, hs.chunkOf, hs.m_tag]
  rw [Machine.chunkWritten, hmem, hs.m_idx]
  rfl

/-- A chunk that is not acknowledged ends the request (R260). -/
theorem mWchunk_fails {r : Rsp}
    (hr : chunkReply (BitVec.ofNat 8 (offset.toNat / tag.bs + c)) s.tflags s.tpayload = some r) :
    mWchunk s = publish r s := by
  simp only [mWchunk, hs.chunkBlock h, chunkFailure_eq, hr]

theorem mWchunk_acknowledged
    (hr : chunkReply (BitVec.ofNat 8 (offset.toNat / tag.bs + c)) s.tflags s.tpayload = none) :
    mWchunk s = nextChunk (chunkStored tag offset data c s) := by
  simp only [mWchunk, hs.chunkBlock h, chunkFailure_eq, hr, hs.chunkWritten h]

/-- An acknowledged chunk with one after it (R259). -/
theorem mWchunk_next (hr : chunkReply (BitVec.ofNat 8 (offset.toNat / tag.bs + c)) s.tflags s.tpayload = none)
    (hc : c + 1 < writeBlocks tag offset data) :
    mWchunk s = enterTransceive (chunkTx tag offset.toNat data (c + 1)) (chunkStored tag offset data c s) := by
  rw [mWchunk_acknowledged h hs hr, nextChunk, hs.stored.m_idx, hs.stored.m_nblk, if_pos hc, hs.stored.startChunk h]

/-- The last chunk acknowledged ends the request. -/
theorem mWchunk_last (hr : chunkReply (BitVec.ofNat 8 (offset.toNat / tag.bs + c)) s.tflags s.tpayload = none)
    (hc : c + 1 = writeBlocks tag offset data) :
    mWchunk s = publish { cls := .ok, flags := some s.tflags } (chunkStored tag offset data c s) := by
  rw [mWchunk_acknowledged h hs hr, nextChunk, hs.stored.m_idx, hs.stored.m_nblk, if_neg (by omega)]
  rfl

end Chunk

/-- A MEM_WRITE accepted, its registers set up, still to enter its first transceive. -/
theorem atChunk_writeStarted (tag : TagRec) (offset : Half) (data : Bytes) (s : State) :
    AtChunk tag offset data 0 (s.writeStarted tag offset data) := ⟨rfl, rfl, rfl, rfl, rfl, rfl⟩

/-- VALIDATE of a MEM_WRITE that reaches the tag (R255, R259). -/
theorem validate_memWrite {tag : TagRec} {offset : Half} {data : Bytes} {s : State}
    (h : memReaches tag offset.toNat data.length = true) (hq : s.rq = .op (.memWrite tag offset data)) :
    validate s = enterTransceive (chunkTx tag offset.toNat data 0) (s.writeStarted tag offset data) := by
  obtain ⟨⟨hmin, hmax⟩, ⟨hnb, hnbmax⟩, hrange, hlen⟩ := memReaches_iff.1 h
  have hgeometry : geometryOk tag = true := by
    simp [geometryOk_eq, geometryFits, hmin, hmax, hnb, hnbmax]
  have hrangeOk : rangeOk tag offset.toNat data.length = true := decide_eq_true hrange
  have hshort : data.length ≤ 65535 := (length_le_of_memReaches h).trans (by decide)
  have hdata : data ≠ [] := List.length_pos_iff.1 hlen
  have hstate : { setPlan tag (mapPlan tag.bs offset.toNat data.length) s with
      m_idx := 0, m_wbuf := paddedData (mapPlan tag.bs offset.toNat data.length) data } =
      s.writeStarted tag offset data := by
    rw [setPlan_eq, paddedData_eq, State.writeStarted, ← hq]
    rfl
  have hstart : validate s = startMemWrite tag offset data s := by
    simp only [validate, hq, isoReqOf, dataLengthOk_eq, hshort, decide_true, if_true]
  rw [hstart, startMemWrite, hgeometry, hrangeOk, ← (atChunk_writeStarted tag offset data s).startChunk h, ← hstate]
  simp only [Bool.not_true, Bool.false_eq_true, if_false, hdata]

end Sys2Proof.Proofs
end

section
/-!
PROOFS. The bytes a MEM_WRITE stores (44_tag_memory.md R262; 20_memory.md R72; 70_reset_and_hazards.md R322): a
transceive leaves the mapper's registers and tag memory, whichever way it goes on, so between two steps of a MEM_WRITE
the chunks before the present one are stored, whatever the CHIP answers and whenever a reset comes.
-/

namespace Sys2Proof.Proofs

open Sys2Proof Sys2Proof.Machine

/-! ## A transceive leaves the mapper's registers and tag memory -/

/-- The states of a transceive (41_transceive.md R140 to R158). -/
def inTransceive : St → Bool
  | .xClr | .xMode | .xChk | .xSend => true
  | .xASample | .xAWait | .xBSample | .xBWait => true
  | .xRxstat | .xRxdata | .xRestore => true
  | _ => false

/-- One step of a transceive from `s` to `t`: it goes on or returns to its caller, or the request ends without a
result; tag memory stays. -/
inductive Within (s t : State) : Prop where
  | goesOn : mapperRegs t = mapperRegs s → t.tag_mem = s.tag_mem →
      inTransceive t.st = true ∨ t.st = returnState s.rq → Within s t
  | ends : t.tag_mem = s.tag_mem → t.st = .ready ∨ t.st = .fault → Within s t

theorem running_of_inTransceive {s : State} (h : inTransceive s.st = true) : s.running = true := by
  refine running_iff.2 ⟨fun hst => ?_, fun hst => ?_, fun hst => ?_⟩ <;> simp [inTransceive, hst] at h

theorem mapperRegs_rq {s t : State} (h : mapperRegs t = mapperRegs s) : t.rq = s.rq := congrArg Prod.fst h

/-- Where the start differs in none of these, it may be exchanged. -/
theorem Within.of_left {s s' t : State} (h : Within s' t) (hregs : mapperRegs s' = mapperRegs s)
    (hmem : s'.tag_mem = s.tag_mem) : Within s t := by
  cases h with
  | goesOn hregs' hmem' hst => exact .goesOn (hregs'.trans hregs) (hmem'.trans hmem) (mapperRegs_rq hregs ▸ hst)
  | ends hmem' hst => exact .ends (hmem'.trans hmem) hst

/-- An operation cut short leaves the unit in FAULT, or in READY after a reset. -/
theorem Tries.ended_st {txs : List Bytes} {s t : State} (h : Tries txs s (.ended t)) :
    t.st = .ready ∨ t.st = .fault := by
  cases h with
  | failed _ _ _ hend _ => exact .inr hend.1
  | reset _ _ _ _ hst => exact .inl hst

/-- After an operation of the chip port. -/
theorem Tries.within {txs : List Bytes} {s : State} {p : Port} {f : State → State} (ht : Tries txs s p)
    (hp : RunsFrom s p) (hmem : p.state.tag_mem = s.tag_mem) (hf : ∀ t : State, Exchanged s t → Within t (f t)) :
    Within s (p.andThen f) := by
  cases p with
  | done t =>
    have hx : Exchanged s t := hp
    have hregs : mapperRegs t = mapperRegs s := by rw [hx.rest]; rfl
    exact (hf t hx).of_left hregs hmem
  | ended t => exact .ends hmem ht.ended_st

theorem within_regRead {a : Byte} {s : State} {f : State → State} (hf : ∀ t : State, Within t (f t)) :
    Within s ((regRead a s).andThen f) :=
  (tries_regRead a s).within (runsFrom_regRead a s) (query_tag_mem _ _ s) fun t _ => hf t

theorem within_setMode_idle {s : State} {f : State → State} (hf : ∀ t : State, Exchanged s t → Within t (f t)) :
    Within s ((setMode Config.modeIdle s).andThen f) :=
  (tries_setMode_idle s).within (runsFrom_setMode _ s) (setMode_tag_mem _ s) hf

theorem within_chkTransmit (s : State) : Within s (chkTransmit s) := by
  unfold chkTransmit
  split
  · exact .goesOn rfl rfl (.inl rfl)
  · have hcleanup : Within { s with fault := .protocolState }
        ((setMode Config.modeIdle { s with fault := .protocolState }).andThen protocolStateError) :=
      within_setMode_idle fun t ht => .ends rfl (.inr (by simp [protocolStateError, ht.fault]))
    exact hcleanup.of_left rfl rfl

theorem within_aSampled (s : State) : Within s (aSampled s) := by
  unfold aSampled
  split_ifs <;> exact .goesOn rfl rfl (.inl rfl)

theorem within_bSampled (s : State) : Within s (bSampled s) := by
  unfold bSampled
  split_ifs <;> exact .goesOn rfl rfl (.inl rfl)

theorem within_xRxstat (s : State) : Within s (xRxstat s) := by
  refine within_regRead fun t => ?_
  dsimp only
  split <;> exact .goesOn rfl rfl (.inl rfl)

/-- Every state of a transceive. -/
theorem within_seqStep {s : State} (hs : inTransceive s.st = true) : Within s (seqStep s) := by
  unfold seqStep
  cases hst : s.st <;> rw [hst] at hs <;> dsimp only
  case xClr =>
    exact (tries_clearIrq s).within (runsFrom_clearIrq s) (command_tag_mem _ _ s) fun t _ => .goesOn rfl rfl (.inl rfl)
  case xMode =>
    exact (tries_setMode_transceive s).within (runsFrom_setMode _ s) (setMode_tag_mem _ s)
      fun t _ => .goesOn rfl rfl (.inl rfl)
  case xChk => exact within_regRead fun t => (within_chkTransmit _).of_left rfl rfl
  case xSend =>
    have hsend : Tries [[0x09, 0x00] ++ s.txf] s (sendData s.txf s) := tries_exchange _ s
    exact hsend.within (runsFrom_sendData _ s) (exchange_tag_mem _ s) fun t _ => .goesOn rfl rfl (.inl rfl)
  case xASample => exact within_regRead fun t => (within_aSampled _).of_left rfl rfl
  case xAWait | xBWait => exact .goesOn rfl rfl (.inl rfl)
  case xBSample => exact within_regRead fun t => (within_bSampled _).of_left rfl rfl
  case xRxstat => exact within_xRxstat s
  case xRxdata =>
    exact (tries_query _ _ s).within (runsFrom_readData _ s) (query_tag_mem _ _ s)
      fun t _ => .goesOn rfl rfl (.inl rfl)
  case xRestore => exact within_setMode_idle fun t _ => .goesOn rfl rfl (.inr rfl)
  all_goals cases hs

/-! ## A MEM_WRITE between two steps -/

/-- A MEM_WRITE that began with the tag memory `before` stands before VALIDATE, is writing chunk `c`, or has ended with
`m` blocks stored. -/
inductive Storing (tag : TagRec) (offset : Half) (data : Bytes) (before : Memory) (t : State) : Prop where
  | waiting : t.st = .validate → t.rq = .op (.memWrite tag offset data) → t.tag_mem = before →
      Storing tag offset data before t
  | writing {c : Nat} : AtChunk tag offset data c t → c < writeBlocks tag offset data →
      inTransceive t.st = true ∨ t.st = .mWchunk → blocksStored tag offset data c before t.tag_mem →
      Storing tag offset data before t
  | ended {m : Nat} : t.running = false → blocksStored tag offset data m before t.tag_mem →
      (t.st = .done → t.r_cls = .ok → m = writeBlocks tag offset data) →
      (∀ b : Byte, t.st = .done → t.r_blk = some b →
        b.toNat = offset.toNat / tag.bs + m ∧ m < writeBlocks tag offset data) →
      Storing tag offset data before t

/-- A failed chunk names its block, and never with the class OK (R260, R261). -/
theorem chunkReply_some {b fl : Byte} {pl : Bytes} {r : Rsp} (h : chunkReply b fl pl = some r) :
    r.cls ≠ .ok ∧ r.blk = some b := by
  unfold chunkReply at h
  split_ifs at h <;> cases h <;> exact ⟨nofun, rfl⟩

section Storing

variable {tag : TagRec} {offset : Half} {data : Bytes} {before : Memory} {s : State}

/-- A request that ends without a result. -/
theorem Storing.broken {m : Nat} {t : State} (hst : t.st = .ready ∨ t.st = .fault)
    (hm : blocksStored tag offset data m before t.tag_mem) : Storing tag offset data before t := by
  have hdone : t.st ≠ .done := by rcases hst with h | h <;> simp [h]
  refine .ended ?_ hm (fun h => absurd h hdone) fun b h => absurd h hdone
  rcases hst with h | h <;> simp [State.running, State.busy, h]

/-- Whenever a reset comes, some blocks are stored (70_reset_and_hazards.md R322). -/
theorem Storing.exists_blocksStored (hs : Storing tag offset data before s) :
    ∃ m : Nat, blocksStored tag offset data m before s.tag_mem := by
  cases hs with
  | waiting _ _ hmem => exact ⟨0, hmem ▸ blocksStored_zero _⟩
  | writing _ _ _ hm => exact ⟨_, hm⟩
  | ended _ hm => exact ⟨_, hm⟩

variable (h : memReaches tag offset.toNat data.length = true)

include h

theorem storing_validate (hq : s.rq = .op (.memWrite tag offset data)) (hmem : s.tag_mem = before) :
    Storing tag offset data before (validate s) := by
  have hpos : 0 < writeBlocks tag offset data := one_le_blocksOf h
  have hforget := (filled_zero before).forget h hpos
  rw [← hmem] at hforget ⊢
  rw [validate_memWrite h hq]
  exact .writing ((atChunk_writeStarted tag offset data s).congr rfl) hpos (.inl rfl) hforget

/-- M_WCHUNK: the chunk is not acknowledged, or it is stored and the next is started, or it was the last (R259 to
R262). -/
theorem storing_mWchunk {c : Nat} (hs : AtChunk tag offset data c s) (hc : c < writeBlocks tag offset data)
    (hm : blocksStored tag offset data c before s.tag_mem) : Storing tag offset data before (mWchunk s) := by
  cases hr : chunkReply (BitVec.ofNat 8 (offset.toNat / tag.bs + c)) s.tflags s.tpayload with
  | some r =>
    obtain ⟨hcls, hblk⟩ := chunkReply_some hr
    rw [mWchunk_fails h hs hr]
    refine .ended (publish_not_running r s) hm (fun _ hok => absurd hok hcls) fun b _ hb => ?_
    have hb : b = BitVec.ofNat 8 (offset.toNat / tag.bs + c) := Option.some.inj (hb.symm.trans hblk)
    exact ⟨hb ▸ Nat.mod_eq_of_lt (block_lt h hc), hc⟩
  | none =>
    have hfilled := filled_memWrite h hm hc
    rcases Nat.lt_or_eq_of_le (show c + 1 ≤ writeBlocks tag offset data from hc) with hlt | hlast
    · rw [mWchunk_next h hs hr hlt]
      exact .writing (hs.stored.congr rfl) hlt (.inl rfl) (hfilled.forget h hlt)
    · rw [mWchunk_last h hs hr hlast]
      rw [hlast] at hfilled
      exact .ended (publish_not_running _ _) hfilled.stored (fun _ _ => rfl) fun b _ hb => nomatch hb

theorem storing_seqStep (hs : Storing tag offset data before s) (hrun : s.running = true) :
    Storing tag offset data before (seqStep s) := by
  cases hs with
  | waiting hst hq hmem =>
    rw [seqStep, hst]
    exact storing_validate h hq hmem
  | @writing c hc hlt hst hm =>
    rcases hst with hst | hst
    · cases within_seqStep hst with
      | goesOn hregs hmem hst' =>
        rw [hc.rq] at hst'
        exact .writing (hc.congr hregs) hlt hst' (hmem ▸ hm)
      | ends hmem hst' => exact .broken hst' (hmem ▸ hm)
    · rw [seqStep, hst]
      exact storing_mWchunk h hc hlt hm
  | ended hend => simp [hend] at hrun

theorem storing_unitStep (hs : Storing tag offset data before s) (hrun : s.running = true) :
    Storing tag offset data before (unitStep s) := by
  unfold unitStep
  rcases sampleRst_cases s with ⟨-, hsample⟩ | ⟨n, rest, -, hsample⟩ | ⟨rest, -, hsample⟩ <;> rw [hsample]
  · exact storing_seqStep h hs hrun
  · have hnearer : Storing tag offset data before { s with rst := n :: rest } := by
      cases hs with
      | waiting hst hq hmem => exact .waiting hst hq hmem
      | writing hc hlt hst hm => exact .writing (hc.congr rfl) hlt hst hm
      | ended hend hm hok hblk => exact .ended hend hm hok hblk
    exact storing_seqStep h hnearer hrun
  · obtain ⟨m, hm⟩ := hs.exists_blocksStored
    exact .broken (.inl rfl) hm

end Storing

theorem storing_request {tag : TagRec} {offset : Half} {data : Bytes} {s : State}
    (h : memReaches tag offset.toNat data.length = true) (hr : s.req_ready = true) :
    Storing tag offset data s.tag_mem (request (.op (.memWrite tag offset data)) s) := by
  rw [request_eq hr]
  exact runSeq_keeps (P := Storing tag offset data s.tag_mem) (fun _ => storing_unitStep h) _ _ (.waiting rfl rfl rfl)

/-- Settles O43: what holds between two steps, at the end of the request. -/
theorem memWriteStores : Obligations.MemWriteStores := by
  intro tag offset data s t h hr hexec
  rw [exec_request rfl] at hexec
  cases hexec
  have hrun : (request (.op (.memWrite tag offset data)) s).running = false := request_not_running hr
  cases storing_request h hr with
  | waiting hst => simp [State.running, State.busy, hst] at hrun
  | writing _ _ hst =>
    rcases hst with hst | hst
    · simp [running_of_inTransceive hst] at hrun
    · simp [State.running, State.busy, hst] at hrun
  | ended _ hm hok hblk => exact ⟨_, hm, hok, hblk⟩

end Sys2Proof.Proofs
end

section
/-!
PROOFS. A MEM_WRITE chunk by chunk, where no reset is to come (44_tag_memory.md R259 to R261): an acknowledged chunk
takes the run to the start of the next one, or to the end of the request, and a chunk that is not acknowledged ends it.
-/

namespace Sys2Proof.Proofs

open Sys2Proof Sys2Proof.Machine

/-! ## One chunk's transceive -/

/-- A transceive of the request `i` up to the step that takes its reply. -/
theorem run_backFrom {i : Instr} {w : State} {f : Bytes} {h : Heard} (n : Nat) (hq : w.rq = .op i) (hrst : w.rst = [])
    (hh : h.heard f w) :
    runSeq (n + h.steps) (enterTransceive f (accepted w)) = runSeq n (backFrom i (h.after f w)) := by
  have hheard : h.heard f (accepted w) := (heard_congr (s := w) (t := accepted w) rfl rfl f h).1 hh
  rw [heard_entered (w := accepted w) n hrst hheard, after_accepted, show (accepted w).rq = .op i from hq]
  rfl

theorem mapperRegs_after (h : Heard) (f : Bytes) (w : State) : mapperRegs (h.after f w) = mapperRegs w := by
  cases h <;> rfl

/-- The reply heard is the acknowledgement `[0x00]`. -/
theorem reply_of_acknowledged {j k : Nat} {w : State} (ha : frameAt j k w = [0x00]) (f : Bytes) :
    ((Heard.frame j k).after f w).tflags = 0x00 ∧ ((Heard.frame j k).after f w).tpayload = [] := by
  have hflags : ((Heard.frame j k).after f w).tflags = (frameAt j k w).headD 0 := rfl
  have hpayload : ((Heard.frame j k).after f w).tpayload = (frameAt j k w).tail := rfl
  rw [hflags, hpayload, ha]
  exact ⟨rfl, rfl⟩

/-- No reset is to come, and no fault is latched. -/
structure Calm (w : State) : Prop where
  rst : w.rst = []
  fault : w.fault = .none

theorem Calm.after {w : State} (hw : Calm w) (h : Heard) (f : Bytes) : Calm (h.after f w) := by
  obtain ⟨-, hrst, hfault, -⟩ := after_kept h f w
  exact ⟨hrst.trans hw.rst, hfault.trans hw.fault⟩

section Chunks

variable {tag : TagRec} {offset : Half} {data : Bytes} {c : Nat} {v w : State}

/-- Where a MEM_WRITE goes from the state `w` that its first `c` chunks left: to chunk `c`, or, after the last, to its
end. -/
def chunksDone (tag : TagRec) (offset : Half) (data : Bytes) (c : Nat) (w : State) : State :=
  if c < writeBlocks tag offset data then enterTransceive (chunkTx tag offset.toNat data c) (accepted w)
  else w.finished { cls := .ok, flags := some 0x00 }

/-- What an acknowledged chunk leaves (R262). -/
theorem chunkAcked_eq (c : Nat) {jk : Nat × Nat} (ha : frameAt jk.1 jk.2 w = [0x00]) :
    w.chunkAcked tag offset.toNat data c jk =
      chunkStored tag offset data c ((Heard.frame jk.1 jk.2).after (chunkTx tag offset.toNat data c) w) := by
  obtain ⟨hflags, -⟩ := reply_of_acknowledged ha (chunkTx tag offset.toNat data c)
  simp only [State.chunkAcked, chunkStored, hflags]

theorem AtChunk.chunkAcked (hw : AtChunk tag offset data c w) {jk : Nat × Nat} (ha : frameAt jk.1 jk.2 w = [0x00]) :
    AtChunk tag offset data (c + 1) (w.chunkAcked tag offset.toNat data c jk) := by
  rw [chunkAcked_eq c ha]
  exact (hw.congr (mapperRegs_after ..)).stored

theorem Calm.chunkAcked (hw : Calm w) (jk : Nat × Nat) : Calm (w.chunkAcked tag offset.toNat data c jk) :=
  ⟨hw.rst, hw.fault⟩

/-- The mapper's registers after some acknowledged chunks. -/
theorem afterChunks_kept : ∀ (jks : List (Nat × Nat)) {c : Nat} {w : State}, AtChunk tag offset data c w → Calm w →
    chunksAcked tag offset.toNat data c jks w →
    AtChunk tag offset data (c + jks.length) (afterChunks tag offset.toNat data c jks w) ∧
      Calm (afterChunks tag offset.toNat data c jks w)
  | [], _, _, hw, hcalm, _ => ⟨hw, hcalm⟩
  | jk :: jks, c, w, hw, hcalm, ⟨_, ha, hrest⟩ => by
    rw [List.length_cons, Nat.add_comm jks.length, ← Nat.add_assoc]
    exact afterChunks_kept jks (hw.chunkAcked ha) (hcalm.chunkAcked jk) hrest

/-- The step that takes a chunk's reply. -/
theorem run_reply_mWchunk (n : Nat) (hv : v.rst = []) :
    runSeq (n + 1) (backFrom (.memWrite tag offset data) v) =
      runSeq n (mWchunk (backFrom (.memWrite tag offset data) v)) := by
  rw [runSeq_succ n (backFrom_running _ v), unitStep_nil (s := backFrom (.memWrite tag offset data) v) hv]
  rfl

variable (h : memReaches tag offset.toNat data.length = true)

include h

/-- The reply acknowledges chunk `c`. -/
theorem run_acknowledged (n : Nat) (hv : AtChunk tag offset data c v) (hcalm : Calm v)
    (hc : c < writeBlocks tag offset data) (hflags : v.tflags = 0x00) (hpayload : v.tpayload = []) :
    runSeq (n + 1) (backFrom (.memWrite tag offset data) v) =
      runSeq n (chunksDone tag offset data (c + 1) (chunkStored tag offset data c v)) := by
  have hback : AtChunk tag offset data c (backFrom (.memWrite tag offset data) v) := hv.congr rfl
  have hstored : chunkStored tag offset data c (backFrom (.memWrite tag offset data) v) =
      backFrom (.memWrite tag offset data) (chunkStored tag offset data c v) := rfl
  have hr : chunkReply (BitVec.ofNat 8 (offset.toNat / tag.bs + c)) v.tflags v.tpayload = none := by
    rw [hflags, hpayload]
    rfl
  rw [run_reply_mWchunk n hcalm.rst, chunksDone]
  split
  · next hlt =>
    rw [mWchunk_next h hback hr hlt, hstored]
    rfl
  · next hlast =>
    have hflags' : (backFrom (.memWrite tag offset data) v).tflags = 0x00 := hflags
    rw [mWchunk_last h hback hr (by omega), hstored, hflags',
      publish_backFrom (v := chunkStored tag offset data c v) hcalm.fault]

/-- An acknowledged chunk takes the request on. -/
theorem run_chunkAcked (n : Nat) (hw : AtChunk tag offset data c w) (hcalm : Calm w) {jk : Nat × Nat}
    (hc : c < writeBlocks tag offset data)
    (hh : (Heard.frame jk.1 jk.2).heard (chunkTx tag offset.toNat data c) w) (ha : frameAt jk.1 jk.2 w = [0x00]) :
    runSeq (n + 1 + (Heard.frame jk.1 jk.2).steps) (chunksDone tag offset data c w) =
      runSeq n (chunksDone tag offset data (c + 1) (w.chunkAcked tag offset.toNat data c jk)) := by
  obtain ⟨hflags, hpayload⟩ := reply_of_acknowledged ha (chunkTx tag offset.toNat data c)
  rw [chunksDone, if_pos hc, run_backFrom (n + 1) hw.rq hcalm.rst hh, chunkAcked_eq c ha]
  exact run_acknowledged h n (hw.congr (mapperRegs_after ..)) (hcalm.after ..) hc hflags hpayload

/-- The reply to chunk `c` is no acknowledgement. -/
theorem run_refused (n : Nat) (hv : AtChunk tag offset data c v) (hcalm : Calm v) {r : Rsp}
    (hr : chunkReply (BitVec.ofNat 8 (offset.toNat / tag.bs + c)) v.tflags v.tpayload = some r) :
    runSeq (n + 1) (backFrom (.memWrite tag offset data) v) = v.finished r := by
  have hback : AtChunk tag offset data c (backFrom (.memWrite tag offset data) v) := hv.congr rfl
  rw [run_reply_mWchunk n hcalm.rst, mWchunk_fails h hback hr, publish_backFrom hcalm.fault, runSeq_idle rfl]

/-- Some acknowledged chunks take the request on, each in at most 112 steps of the unit. -/
theorem run_chunksAcked : ∀ (jks : List (Nat × Nat)) {c : Nat} {w : State}, AtChunk tag offset data c w → Calm w →
    c + jks.length ≤ writeBlocks tag offset data → chunksAcked tag offset.toNat data c jks w →
    ∃ steps ≤ 112 * jks.length, ∀ n : Nat, runSeq (n + steps) (chunksDone tag offset data c w) =
      runSeq n (chunksDone tag offset data (c + jks.length) (afterChunks tag offset.toNat data c jks w))
  | [], _, _, _, _, _, _ => ⟨0, Nat.zero_le _, fun _ => rfl⟩
  | jk :: jks, c, w, hw, hcalm, hc, ⟨hh, ha, hrest⟩ => by
    rw [List.length_cons] at hc ⊢
    obtain ⟨steps, hsteps, hrun⟩ :=
      run_chunksAcked jks (hw.chunkAcked ha) (hcalm.chunkAcked jk) (by omega) hrest
    have hone : (Heard.frame jk.1 jk.2).steps ≤ 111 := heard_steps_le hh
    refine ⟨steps + 1 + (Heard.frame jk.1 jk.2).steps, by omega, fun n => ?_⟩
    rw [← Nat.add_assoc, ← Nat.add_assoc, run_chunkAcked h (n + steps) hw hcalm (by omega) hh ha, hrun,
      Nat.add_assoc c, Nat.add_comm 1]
    rfl

end Chunks

/-! ## A whole MEM_WRITE -/

theorem calm_writeStarted {tag : TagRec} {offset : Half} {data : Bytes} {s : State} (hr : s.req_ready = true)
    (hs : s.rst = []) : Calm (s.writeStarted tag offset data) := by
  obtain ⟨hfault, -⟩ := ready_fault hr
  exact ⟨hs, hfault⟩

/-- A MEM_WRITE up to its first chunk. -/
theorem exec_memWrite {tag : TagRec} {offset : Half} {data : Bytes} {s : State}
    (h : memReaches tag offset.toNat data.length = true) (hr : s.req_ready = true) (hs : s.rst = []) :
    exec (.memWrite tag offset data) s =
      .next (runSeq (Config.maxSteps - 1) (chunksDone tag offset data 0 (s.writeStarted tag offset data))) := by
  have hpos : 0 < writeBlocks tag offset data := one_le_blocksOf h
  have hstep : seqStep (accept (.op (.memWrite tag offset data)) s) =
      chunksDone tag offset data 0 (s.writeStarted tag offset data) := by
    rw [chunksDone, if_pos hpos]
    exact validate_memWrite (s := accept (.op (.memWrite tag offset data)) s) h rfl
  rw [exec_request rfl, request_eq hr, runSeq_step (s := accept _ s) (by decide) rfl hs, hstep]

theorem writeBlocks_le {tag : TagRec} {offset : Half} {data : Bytes}
    (h : memReaches tag offset.toNat data.length = true) : writeBlocks tag offset data ≤ 256 := by
  obtain ⟨-, ⟨-, hnb⟩, -⟩ := memReaches_iff.1 h
  exact (Nat.le_add_left _ _).trans ((lastBlock_le h).trans hnb)

/-- A MEM_WRITE after some acknowledged chunks, with fuel for one more. -/
theorem exec_chunksAcked {tag : TagRec} {offset : Half} {data : Bytes} {jks : List (Nat × Nat)} {s : State}
    (h : memReaches tag offset.toNat data.length = true) (hr : s.req_ready = true) (hs : s.rst = [])
    (hjks : jks.length ≤ writeBlocks tag offset data)
    (ha : chunksAcked tag offset.toNat data 0 jks (s.writeStarted tag offset data)) :
    ∃ n ≥ 112, exec (.memWrite tag offset data) s = .next (runSeq n (chunksDone tag offset data jks.length
      (afterChunks tag offset.toNat data 0 jks (s.writeStarted tag offset data)))) := by
  obtain ⟨steps, hsteps, hrun⟩ := run_chunksAcked h jks (atChunk_writeStarted tag offset data s)
    (calm_writeStarted hr hs) (by omega) ha
  have hblocks := writeBlocks_le h
  have hmax : Config.maxSteps = 29192 := rfl
  refine ⟨Config.maxSteps - 1 - steps, by omega, ?_⟩
  rw [exec_memWrite h hr hs]
  rw [Nat.zero_add] at hrun
  rw [← hrun, Nat.sub_add_cancel (by omega)]

/-- Settles O41: after the last chunk the request is at its end. -/
theorem memWriteCompletes : Obligations.MemWriteCompletes := by
  intro tag offset data jks s h hr hs hjks ha
  obtain ⟨n, -, hexec⟩ := exec_chunksAcked h hr hs hjks.le ha
  rw [hexec, hjks, chunksDone, if_neg (Nat.lt_irrefl _), runSeq_idle rfl]

/-- Settles O42: after the acknowledged chunks, the transceive of the one that is not. -/
theorem memWriteChunkFails : Obligations.MemWriteChunkFails := by
  intro tag offset data jks hd r s h hr hs hjks ha u f hh hreply
  obtain ⟨hat, hcalm⟩ := afterChunks_kept jks (atChunk_writeStarted tag offset data s) (calm_writeStarted hr hs) ha
  rw [Nat.zero_add] at hat
  obtain ⟨n, hn, hexec⟩ := exec_chunksAcked h hr hs hjks.le ha
  have hsteps : hd.steps ≤ 111 := heard_steps_le hh
  obtain ⟨m, rfl⟩ : ∃ m, n = m + 1 + hd.steps := ⟨n - 1 - hd.steps, by omega⟩
  rw [hexec, chunksDone, if_pos hjks, run_backFrom (m + 1) hat.rq hcalm.rst hh,
    run_refused h m (hat.congr (mapperRegs_after hd f u)) (hcalm.after hd f) hreply]

end Sys2Proof.Proofs
end

section
/-!
PROOFS. What a MEM_WRITE that ended OK left on the tag, byte by byte (44_tag_memory.md R262, R263), and the MEM_READ
that brings it back (R258, R264).
-/

namespace Sys2Proof.Proofs

open Sys2Proof Sys2Proof.Machine

/-- After a MEM_WRITE that ended OK every covered block holds its chunk. -/
theorem memRead_of_written {tag : TagRec} {offset : Half} {data : Bytes} {s t : State}
    (h : memReaches tag offset.toNat data.length = true) (hr : s.req_ready = true)
    (hexec : exec (.memWrite tag offset data) s = .next t) (hdone : t.st = .done) (hok : t.r_cls = .ok)
    {c k : Nat} (hc : c < writeBlocks tag offset data) (hk : k < tag.bs) :
    memRead (blockAddr tag (offset.toNat / tag.bs + c) + k) t.tag_mem =
      (chunkBytes tag.bs offset.toNat data c)[k]? := by
  obtain ⟨m, ⟨-, hchunks, -, -⟩, hall, -⟩ := memWriteStores tag offset data s t h hr hexec
  obtain rfl := hall hdone hok
  exact hchunks c k hc hk

/-- Settles O44: byte `a` is byte `a mod bs` of chunk `a div bs`, counted from the first covered block. -/
theorem memWritePads : Obligations.MemWritePads := by
  intro tag offset data s t h hr hexec hdone hok a hfirst hlast
  obtain ⟨⟨hbs, -⟩, -⟩ := memReaches_iff.1 h
  obtain ⟨c, hc⟩ := Nat.exists_eq_add_of_le ((Nat.le_div_iff_mul_le hbs).2 hfirst)
  have hcount : c < writeBlocks tag offset data := by
    have := (Nat.div_lt_iff_lt_mul hbs).2 hlast
    omega
  have hk : a % tag.bs < tag.bs := Nat.mod_lt a hbs
  have hat : a = offset.toNat / tag.bs * tag.bs + (c * tag.bs + a % tag.bs) := by
    rw [← Nat.add_assoc, ← Nat.add_mul, ← hc, Nat.div_add_mod']
  have hoffset := Nat.div_add_mod' offset.toNat tag.bs
  have hin : c * tag.bs + a % tag.bs < writeBlocks tag offset data * tag.bs := by
    have : (c + 1) * tag.bs ≤ writeBlocks tag offset data * tag.bs := Nat.mul_le_mul_right _ hcount
    rw [Nat.succ_mul] at this
    omega
  rw [tagByte, hc, memRead_of_written h hr hexec hdone hok hcount hk, chunkBytes_getElem? _ _ _ _ hk,
    paddedBytes_getElem? h hin]
  generalize offset.toNat / tag.bs * tag.bs = base at hat hoffset
  generalize c * tag.bs + a % tag.bs = x at hat ⊢
  have hiff : offset.toNat % tag.bs ≤ x ∧ x < offset.toNat % tag.bs + data.length ↔
      offset.toNat ≤ a ∧ a < offset.toNat + data.length := by omega
  have hpos : x - offset.toNat % tag.bs = a - offset.toNat := by omega
  simp only [hiff, hpos]

/-! ## The round trip -/

theorem frameAt_congr {s t : State} (hin : s.chip_in = t.chip_in) (hnx : s.nx = t.nx) (j k : Nat) :
    frameAt j k s = frameAt j k t := by
  simp only [frameAt, countAt, valueAt_congr hin hnx, answerAt_congr hin hnx]

/-- A request that was accepted leaves the unit at rest. -/
theorem atRest_of_accepted {q : Request} {s : State} (hr : s.req_ready = true) : AtRest (request q s) := by
  obtain ⟨hfault, -⟩ := ready_fault hr
  rw [request_eq hr]
  exact atRest_runSeq _ (s := accept q s) ⟨rfl, hfault, trivial⟩ le_rfl

theorem AtRest.req_ready {s : State} (h : AtRest s) (hdone : s.st = .done) : s.req_ready = true := by
  cases h with
  | done _ hfault => simp [State.req_ready, State.busy, hdone, hfault]
  | ready hst | transport hst | protocol hst => simp [hst] at hdone

/-- A string that stands in another, byte by byte. -/
theorem take_drop_eq {pl data : Bytes} {skip : Nat}
    (hat : ∀ i < data.length, pl[skip + i]? = data[i]?) : (pl.drop skip).take data.length = data := by
  refine List.ext_getElem? fun i => ?_
  by_cases hi : i < data.length
  · rw [List.getElem?_take_of_lt hi, List.getElem?_drop, hat i hi]
  · have hshort : ((pl.drop skip).take data.length).length ≤ i := by simp; omega
    rw [List.getElem?_eq_none hshort, List.getElem?_eq_none (Nat.not_lt.1 hi)]

/-- A MEM_READ whose reply is flags 0 and a payload that is long enough (R256, R257). -/
theorem memRead_ok {tag : TagRec} {offset length : Half} {pl : Bytes} {j k : Nat} {t : State}
    (h : memReaches tag offset.toNat length.toNat = true) (hr : t.req_ready = true) (hrst : t.rst = [])
    (hh : (Heard.frame j k).heard (memReadBytes tag offset.toNat length.toNat) t)
    (hframe : frameAt j k t = 0x00 :: pl) (hlen : offset.toNat % tag.bs + length.toNat ≤ pl.length) :
    ∃ u : State, exec (.memRead tag offset length) t = .next u ∧ u.st = .done ∧ u.r_cls = .ok ∧
      u.r_data = (pl.drop (offset.toNat % tag.bs)).take length.toNat := by
  have hf : frameOf (.memRead tag offset length) = some (memReadBytes tag offset.toNat length.toNat) := if_pos h
  have hreceived : frameAt j k (t.startedBy (.memRead tag offset length)) = 0x00 :: pl :=
    (frameAt_congr rfl rfl j k).trans hframe
  have hreply : memReadReply tag.bs offset.toNat length.toNat 0x00 pl =
      ⟨.ok, none, none, some 0x00, (pl.drop (offset.toNat % tag.bs)).take length.toNat, none, none, none⟩ := by
    simp only [memReadReply, ne_eq, not_true_eq_false, if_false, Nat.not_lt.2 hlen]
  refine ⟨_, frameReceived j k _ _ t hf hr hrst hh, rfl, ?_, ?_⟩ <;>
    simp only [State.finished, State.responded, Heard.after, Heard.ran, hreceived, replyOf, List.headD_cons,
      List.tail_cons, hreply]

/-- Settles O45: the reply carries the written bytes, and the MEM_READ cuts the data out of it. -/
theorem memRoundTrip : Obligations.MemRoundTrip := by
  intro tag offset data pl j k s t h hr hexec hdone hok hrst hh hframe hlen hbytes
  have hrest : AtRest t := by
    cases hexec
    exact atRest_of_accepted hr
  have hlength : (BitVec.ofNat 16 data.length).toNat = data.length :=
    Nat.mod_eq_of_lt ((length_le_of_memReaches h).trans_lt (by decide))
  obtain ⟨u, hu, hst, hcls, hread⟩ := memRead_ok (tag := tag) (offset := offset) (length := BitVec.ofNat 16 data.length)
    (by rwa [hlength]) (hrest.req_ready hdone) hrst (by rwa [hlength]) hframe (by rwa [hlength])
  refine ⟨u, hu, hst, hcls, ?_⟩
  rw [hread, hlength]
  refine take_drop_eq fun i hi => ?_
  have hoffset := Nat.div_add_mod' offset.toNat tag.bs
  have hrange := range_le h
  have hat : offset.toNat / tag.bs * tag.bs + (offset.toNat % tag.bs + i) = offset.toNat + i := by omega
  have hwritten : tagByte tag (offset.toNat + i) t = some (data.getD i 0) := by
    rw [memWritePads tag offset data s t h hr hexec hdone hok _ (by omega) (by rw [writeBlocks]; omega),
      if_pos ⟨Nat.le_add_right _ _, by omega⟩, Nat.add_sub_cancel_left]
  rw [getElem?_eq_some_getD hi]
  exact hbytes _ _ (by omega) (hat.symm ▸ hwritten)

end Sys2Proof.Proofs
end

section
/-!
PROOFS. What the two faults record (60_exceptions.md R285 to R287): an operation of the chip port that ends a request
has published a TransportError of that request or taken a reset, and only the WAIT_TRANSMIT check latches PROTOCOL_STATE
(41_transceive.md R144). So between two steps of a request no exchange of it has failed and no fault is latched.
-/

namespace Sys2Proof.Proofs

open Sys2Proof Sys2Proof.Machine

/-! ## How an operation of the chip port ends -/

/-- The registers a fault is recorded with stay. -/
structure RecordKept (s t : State) : Prop where
  rq : t.rq = s.rq
  fault : t.fault = s.fault
  ts : t.ts = s.ts

theorem RecordKept.refl (s : State) : RecordKept s s := ⟨rfl, rfl, rfl⟩

theorem RecordKept.trans {s t u : State} (h₁ : RecordKept s t) (h₂ : RecordKept t u) : RecordKept s u :=
  ⟨h₂.rq.trans h₁.rq, h₂.fault.trans h₁.fault, h₂.ts.trans h₁.ts⟩

/-- All that an operation of the chip port can leave of the request it belongs to: those registers as they are, a
TransportError of that request, or a reset. -/
def PortEnd (s : State) : Port → Prop
  | .done t => RecordKept s t
  | .ended t => (∃ w : State, w.rq = s.rq ∧ t = transportError w) ∨ ∃ w : State, t = takeReset w

theorem PortEnd.bind {s : State} {p : Port} {f : State → Port} (hp : PortEnd s p)
    (hf : ∀ t : State, PortEnd t (f t)) : PortEnd s (p.bind f) := by
  cases p with
  | ended t => exact hp
  | done t =>
    have ht := hf t
    rw [Port.bind]
    cases hft : f t with
    | done u =>
      rw [hft] at ht
      exact RecordKept.trans hp ht
    | ended u =>
      rw [hft] at ht
      exact ht.imp_left fun ⟨w, hw, hu⟩ => ⟨w, hw.trans (RecordKept.rq hp), hu⟩

theorem portEnd_exchange (tx : Bytes) (s : State) : PortEnd s (exchange tx s) := by
  rcases exchange_cases tx s with ⟨r, rx, -, -, -, h⟩ | ⟨r, -, -, -, h⟩ | ⟨rest, -, h⟩ <;> rw [h]
  · exact ⟨rfl, rfl, rfl⟩
  · exact .inl ⟨logXchg tx none { s with rst := r }, rfl, rfl⟩
  · exact .inr ⟨_, rfl⟩

theorem portEnd_command (i : Instr) (eff : ChipEffect) (s : State) : PortEnd s (command i eff s) :=
  (portEnd_exchange _ s).bind fun _ => ⟨rfl, rfl, rfl⟩

theorem portEnd_query (i : Instr) (n : Nat) (s : State) : PortEnd s (query i n s) := by
  refine (portEnd_exchange _ s).bind fun t => ?_
  split
  · exact ⟨rfl, rfl, rfl⟩
  · exact portEnd_exchange _ t

theorem portEnd_setMode (m : Word) (s : State) : PortEnd s (setMode m s) := by
  refine (portEnd_command _ _ s).bind fun t => ?_
  split
  · exact .refl t
  · exact portEnd_command _ _ t

theorem portEnd_clearIrq (s : State) : PortEnd s (clearIrq s) := portEnd_command _ _ s

/-- What an operation that returned has added to the log. -/
theorem Tries.done_log {txs : List Bytes} {s t : State} (h : Tries txs s (.done t)) :
    ∃ rxs : List Bytes, rxs.length = txs.length ∧
      t.log = s.log ++ List.zipWith (fun tx rx => ⟨tx, some rx⟩) txs rxs := by
  cases h with
  | done hlog htx hret =>
    obtain ⟨rxs, hlen, hzip⟩ := hret.exists_answers
    rw [htx] at hlen hzip
    exact ⟨rxs, hlen, hzip ▸ hlog⟩

/-- A register read that returned has its value in `ret`. -/
theorem regRead_done_log {a : Byte} {s t : State} (h : regRead a s = .done t) :
    ∃ rx : Bytes, t.log = s.log ++ [⟨[0x04, a], some rx⟩, ⟨fillTx, some t.ret⟩] := by
  obtain ⟨rxs, hlen, hlog⟩ := (h ▸ tries_regRead a s : Tries (readTx a) s (.done t)).done_log
  match rxs, hlen with
  | [rx, v], _ =>
    have hv : v = t.ret := by simpa [hlog, readTx] using regRead_done_ret h
    exact ⟨rx, hv ▸ hlog⟩

theorem setMode_idle_done_log {s t : State} (h : setMode Config.modeIdle s = .done t) :
    ∃ rx : Bytes, t.log = s.log ++ [⟨modeAndTx, some rx⟩] := by
  obtain ⟨rxs, hlen, hlog⟩ := (h ▸ tries_setMode_idle s : Tries [modeAndTx] s (.done t)).done_log
  match rxs, hlen with
  | [rx], _ => exact ⟨rx, hlog⟩

/-! ## A request between two steps -/

/-- The log is `start` and then exchanges that returned, the request in `rq` is `q`, and no reset is to come where none
was. -/
structure Carries (start : List Xchg) (rst : List Nat) (q : Request) (s : State) : Prop where
  log : ∃ l : List Xchg, s.log = start ++ l ∧ Returned l
  rq : s.rq = q
  rst : rst = [] → s.rst = []

/-- A request `q` that began with the log `start` and the resets `rst` to come: no fault is latched and no exchange of
it has failed, it was abandoned by a reset, or one of the two faults has ended it. -/
inductive Recorded (start : List Xchg) (rst : List Nat) (q : Request) : State → Prop where
  | unfaulted {t : State} : Carries start rst q t → t.fault = .none → t.st ≠ .ready → Recorded start rst q t
  | reset {t : State} {l : List Xchg} : rst ≠ [] → t.log = start ++ l → Returned l → t.st = .ready →
      t.fault = .none → Recorded start rst q t
  | transport {w : State} {l : List Xchg} {tx : Bytes} : w.rq = q → w.log = start ++ (l ++ [⟨tx, none⟩]) →
      Returned l → Recorded start rst q (transportError w)
  | protocol {w : State} {l : List Xchg} {rx4 rx5 rx6 : Bytes} : w.rq = q → w.fault = .protocolState →
      w.log = start ++ (l ++ [⟨[0x04, 0x1D], some rx4⟩, ⟨fillTx, some rx5⟩, ⟨modeAndTx, some rx6⟩]) → Returned l →
      w.ts = (u32le rx5).extractLsb' 24 3 → w.ts ≠ 1 → Recorded start rst q (protocolStateError w)

/-- A step that makes no exchange and latches no fault. -/
structure Quiet (s t : State) : Prop where
  log : t.log = s.log
  rq : t.rq = s.rq
  rst : t.rst = s.rst
  fault : t.fault = s.fault
  st : t.st ≠ .ready

theorem quiet_publish (r : Rsp) (s : State) : Quiet s (publish r s) := by
  refine ⟨rfl, rfl, rfl, rfl, ?_⟩
  rw [publish_st]
  split <;> decide

theorem quiet_badRequest (s : State) : Quiet s (badRequest s) := quiet_publish _ s

theorem quiet_startRf (ok : Bool) (f : Bytes) (s : State) : Quiet s (startRf ok f s) := by
  unfold startRf
  split
  · exact ⟨rfl, rfl, rfl, rfl, nofun⟩
  · exact quiet_badRequest s

theorem quiet_startCodec (ok : Bool) (s : State) : Quiet s (startCodec ok s) := by
  unfold startCodec
  split
  · exact ⟨rfl, rfl, rfl, rfl, nofun⟩
  · exact quiet_badRequest s

theorem quiet_startMemRead (tag : TagRec) (offset length : Half) (s : State) :
    Quiet s (startMemRead tag offset length s) := by
  unfold startMemRead
  split_ifs
  any_goals exact quiet_publish _ s
  exact ⟨rfl, rfl, rfl, rfl, nofun⟩

theorem quiet_startMemWrite (tag : TagRec) (offset : Half) (data : Bytes) (s : State) :
    Quiet s (startMemWrite tag offset data s) := by
  unfold startMemWrite
  split_ifs
  any_goals exact quiet_publish _ s
  exact ⟨rfl, rfl, rfl, rfl, nofun⟩

theorem quiet_validate (s : State) : Quiet s (validate s) := by
  unfold validate
  split
  · exact quiet_badRequest s
  · split
    · exact quiet_startRf _ _ s
    · split
      any_goals exact quiet_startRf _ _ s
      any_goals exact quiet_startCodec _ s
      · exact quiet_startMemRead _ _ _ s
      · split
        · exact quiet_startMemWrite _ _ _ s
        · exact quiet_badRequest s
      · exact quiet_badRequest s

theorem quiet_aSampled (s : State) : Quiet s (aSampled { s with irq := u32le s.ret, smp := s.smp + 1 }) := by
  unfold aSampled
  split_ifs <;> exact ⟨rfl, rfl, rfl, rfl, nofun⟩

theorem quiet_bSampled (s : State) : Quiet s (bSampled { s with irq := u32le s.ret, smp := s.smp + 1 }) := by
  unfold bSampled
  split_ifs <;> exact ⟨rfl, rfl, rfl, rfl, nofun⟩

theorem quiet_decodeStep (s : State) : Quiet s (decodeStep s) := by
  unfold decodeStep
  split
  · exact quiet_publish _ s
  · exact quiet_badRequest s

theorem quiet_mRead (s : State) : Quiet s (mRead s) := by
  unfold mRead
  split
  · exact quiet_publish _ s
  · exact quiet_badRequest s

theorem quiet_mWchunk (s : State) : Quiet s (mWchunk s) := by
  unfold mWchunk
  split
  · exact quiet_publish _ s
  · unfold nextChunk
    split
    · exact ⟨rfl, rfl, rfl, rfl, nofun⟩
    · exact ⟨rfl, rfl, rfl, rfl, (quiet_publish _ (chunkWritten s)).st⟩

theorem returnState_ne_ready (q : Request) : returnState q ≠ .ready := by
  rcases returnState_cases q with h | h | h <;> simp [h]

section Request

variable {start : List Xchg} {rst : List Nat} {q : Request} {s : State}

/-- An operation that ends the request. -/
theorem Carries.ended {txs : List Bytes} {t : State} (h : Carries start rst q s) (hp : Tries txs s (.ended t))
    (he : PortEnd s (.ended t)) : Recorded start rst q t := by
  obtain ⟨⟨g, hg, hgret⟩, hq, hrst⟩ := h
  cases hp with
  | @failed _ l tx hlog _ hret hend _ =>
    have hlog' : t.log = start ++ (g ++ l ++ [⟨tx, none⟩]) := by rw [hlog, hg]; simp only [List.append_assoc]
    rcases he with ⟨w, hw, rfl⟩ | ⟨w, rfl⟩
    · exact .transport (hw.trans hq) hlog' (hgret.append hret)
    · cases hend.2
  | @reset _ l hlog _ hret hne hst =>
    have hlog' : t.log = start ++ (g ++ l) := by rw [hlog, hg, List.append_assoc]
    have hfault : t.fault = .none := by
      rcases he with ⟨w, -, rfl⟩ | ⟨w, rfl⟩
      · cases hst
      · rfl
    exact .reset (hne ∘ hrst) hlog' (hgret.append hret) hst hfault

/-- An operation that returns. -/
theorem Carries.done {txs : List Bytes} {t : State} (h : Carries start rst q s) (hp : Tries txs s (.done t))
    (he : PortEnd s (.done t)) : Carries start rst q t := by
  obtain ⟨⟨g, hg, hgret⟩, hq, hrst⟩ := h
  cases hp with
  | @done _ l hlog _ hret hnil =>
    exact ⟨⟨g ++ l, by rw [hlog, hg, List.append_assoc], hgret.append hret⟩, (RecordKept.rq he).trans hq, hnil ∘ hrst⟩

theorem Carries.of_quiet {t : State} (h : Carries start rst q s) (hf : s.fault = .none) (hquiet : Quiet s t) :
    Recorded start rst q t := by
  obtain ⟨hlog, hrq, hrst, hfault, hst⟩ := hquiet
  exact .unfaulted ⟨hlog ▸ h.log, hrq.trans h.rq, fun hnil => hrst.trans (h.rst hnil)⟩ (hfault.trans hf) hst

/-- An operation, and a step after it. -/
theorem Carries.andThen {txs : List Bytes} {p : Port} {f : State → State} (h : Carries start rst q s)
    (hp : Tries txs s p) (he : PortEnd s p)
    (hf : ∀ t : State, p = .done t → Carries start rst q t → RecordKept s t → Recorded start rst q (f t)) :
    Recorded start rst q (p.andThen f) := by
  cases p with
  | done t => exact hf t rfl (h.done hp he) he
  | ended t => exact h.ended hp he

/-- The end of a ProtocolStateError: the return to IDLE, completed or cut short (41_transceive.md R144;
60_exceptions.md R286, R287). -/
theorem recorded_refused {l : List Xchg} {rx4 rx5 : Bytes} (hl : Returned l)
    (hlog : s.log = start ++ l ++ [⟨[0x04, 0x1D], some rx4⟩, ⟨fillTx, some rx5⟩]) (hq : s.rq = q)
    (hrst : rst = [] → s.rst = []) (hfault : s.fault = .protocolState)
    (hread : s.ts = (u32le rx5).extractLsb' 24 3) (hts : s.ts ≠ 1) :
    Recorded start rst q ((setMode Config.modeIdle s).andThen protocolStateError) := by
  have hcarries : Carries start rst q s :=
    ⟨⟨l ++ [⟨[0x04, 0x1D], some rx4⟩, ⟨fillTx, some rx5⟩], by rw [hlog, List.append_assoc],
      hl.append (by simp [Returned])⟩, hq, hrst⟩
  refine hcarries.andThen (tries_setMode_idle s) (portEnd_setMode _ s) fun t hset _ hkept => ?_
  obtain ⟨rx6, hlog6⟩ := setMode_idle_done_log hset
  have hlog' : t.log = start ++ (l ++ [⟨[0x04, 0x1D], some rx4⟩, ⟨fillTx, some rx5⟩, ⟨modeAndTx, some rx6⟩]) := by
    rw [hlog6, hlog]
    simp
  exact .protocol (hkept.rq.trans hq) (hkept.fault.trans hfault) hlog' hl (hkept.ts.trans hread) (hkept.ts ▸ hts)

variable (h : Carries start rst q s) (hf : s.fault = .none)

include h hf

/-- X_CHK (41_transceive.md R143, R144). -/
theorem recorded_xChk : Recorded start rst q (xChk s) := by
  refine h.andThen (tries_regRead _ s) (portEnd_query _ _ s) fun t hread ht hkept => ?_
  unfold chkTransmit
  split
  · exact ht.of_quiet (hkept.fault.trans hf) ⟨rfl, rfl, rfl, rfl, nofun⟩
  · next hts =>
    obtain ⟨l, hl, hret⟩ := h.log
    obtain ⟨rx4, hlog⟩ := regRead_done_log hread
    exact recorded_refused hret (hlog.trans (by rw [hl]; rfl)) ht.rq ht.rst rfl rfl hts

/-- An operation and a quiet step after it. -/
theorem Carries.quietly {txs : List Bytes} {p : Port} {f : State → State} (hp : Tries txs s p) (he : PortEnd s p)
    (hquiet : ∀ t : State, Quiet t (f t)) : Recorded start rst q (p.andThen f) :=
  h.andThen hp he fun t _ ht hkept => ht.of_quiet (hkept.fault.trans hf) (hquiet t)

theorem recorded_regRead {a : Byte} {f : State → State} (hquiet : ∀ t : State, Quiet t (f t)) :
    Recorded start rst q ((regRead a s).andThen f) :=
  h.quietly hf (tries_regRead a s) (portEnd_query _ _ s) hquiet

theorem recorded_codec : Recorded start rst q (codec s) := by
  unfold codec
  split
  · exact h.quietly hf ((tries_clearIrq s).bind tries_setMode_idle) ((portEnd_clearIrq s).bind (portEnd_setMode _))
      (quiet_publish _)
  · exact h.quietly hf (tries_command _ _ s) (portEnd_command _ _ s) (quiet_publish _)
  · exact h.quietly hf (tries_command _ _ s) (portEnd_command _ _ s) (quiet_publish _)
  · exact h.quietly hf (tries_command _ _ s) (portEnd_command _ _ s) (quiet_publish _)
  · exact recorded_regRead h hf fun t => quiet_publish _ t
  · exact h.quietly hf (tries_query _ _ s) (portEnd_query _ _ s) fun t => quiet_publish _ t
  · exact h.of_quiet hf (quiet_publish _ s)

theorem recorded_seqStep (hrun : s.running = true) : Recorded start rst q (seqStep s) := by
  obtain ⟨hready, hdone, hfault⟩ := running_iff.1 hrun
  unfold seqStep
  split
  case h_1 hst => exact absurd hst hready
  case h_2 => exact h.of_quiet hf (quiet_validate s)
  case h_3 => exact recorded_codec h hf
  case h_4 => exact h.quietly hf (tries_clearIrq s) (portEnd_clearIrq s) fun t => ⟨rfl, rfl, rfl, rfl, nofun⟩
  case h_5 => exact h.quietly hf (tries_setMode_transceive s) (portEnd_setMode _ s) fun t => ⟨rfl, rfl, rfl, rfl, nofun⟩
  case h_6 => exact recorded_xChk h hf
  case h_7 => exact h.quietly hf (tries_exchange _ s) (portEnd_exchange _ s) fun t => ⟨rfl, rfl, rfl, rfl, nofun⟩
  case h_8 => exact recorded_regRead h hf quiet_aSampled
  case h_9 => exact h.of_quiet hf ⟨rfl, rfl, rfl, rfl, nofun⟩
  case h_10 => exact recorded_regRead h hf quiet_bSampled
  case h_11 => exact h.of_quiet hf ⟨rfl, rfl, rfl, rfl, nofun⟩
  case h_12 =>
    refine recorded_regRead h hf fun t => ?_
    dsimp only
    split <;> exact ⟨rfl, rfl, rfl, rfl, nofun⟩
  case h_13 => exact h.quietly hf (tries_query _ _ s) (portEnd_query _ _ s) fun t => ⟨rfl, rfl, rfl, rfl, nofun⟩
  case h_14 =>
    exact h.quietly hf (tries_setMode_idle s) (portEnd_setMode _ s)
      fun t => ⟨rfl, rfl, rfl, rfl, returnState_ne_ready t.rq⟩
  case h_15 => exact h.of_quiet hf (quiet_decodeStep s)
  case h_16 => exact h.of_quiet hf (quiet_mRead s)
  case h_17 => exact h.of_quiet hf (quiet_mWchunk s)
  case h_18 hst => exact absurd hst hdone
  case h_19 hst => exact absurd hst hfault

end Request

theorem Recorded.unitStep {start : List Xchg} {rst : List Nat} {q : Request} {s : State}
    (h : Recorded start rst q s) (hrun : s.running = true) : Recorded start rst q (unitStep s) := by
  cases h with
  | unfaulted h hf hst =>
    unfold Machine.unitStep
    rcases sampleRst_cases s with ⟨-, hs⟩ | ⟨n, rest, hrst, hs⟩ | ⟨rest, hrst, hs⟩ <;> rw [hs]
    · exact recorded_seqStep h hf hrun
    · exact recorded_seqStep (s := { s with rst := n :: rest })
        ⟨h.log, h.rq, fun hnil => by simp [h.rst hnil] at hrst⟩ hf hrun
    · obtain ⟨l, hl, hret⟩ := h.log
      exact .reset (fun hnil => by simp [h.rst hnil] at hrst) hl hret rfl rfl
  | reset _ _ _ hst _ => simp [State.running, State.busy, hst] at hrun
  | transport => cases hrun
  | protocol => simp [protocolStateError, publish_not_running] at hrun

/-- What a request has recorded at its end. -/
theorem recorded_request {q : Request} {s : State} (hr : s.req_ready = true) :
    Recorded s.log s.rst q (request q s) := by
  obtain ⟨hfault, -⟩ := ready_fault hr
  rw [request_eq hr]
  exact runSeq_keeps (P := Recorded s.log s.rst q) (fun _ => Recorded.unitStep) _ _
    (.unfaulted ⟨⟨[], (List.append_nil _).symm, returned_nil⟩, rfl, id⟩ hfault nofun)

/-! ## The faults -/

theorem Recorded.returned {start : List Xchg} {rst : List Nat} {q : Request} {t : State}
    (h : Recorded start rst q t) (hfault : t.fault = .none) : ∃ l : List Xchg, t.log = start ++ l ∧ Returned l := by
  cases h with
  | unfaulted h => exact h.log
  | reset _ hlog hret => exact ⟨_, hlog, hret⟩
  | transport => cases hfault
  | protocol _ hprotocol => cases hprotocol.symm.trans hfault

theorem Returned.no_failure {l : List Xchg} (h : Returned l) : ¬ ∃ x ∈ l, x.rx = none :=
  fun ⟨x, hx, hrx⟩ => h x hx hrx

/-- Settles O35: what is recorded at the end of the request, without a fault and with each of the two. -/
theorem faultsRecorded : Obligations.FaultsRecorded := by
  intro i s t hi hr h
  have hrec : Recorded s.log s.rst (.op i) t := by
    rw [exec_request hi] at h
    cases h
    exact recorded_request hr
  by_cases hnone : t.fault = .none
  · obtain ⟨l, hlog, hret⟩ := hrec.returned hnone
    exact ⟨l, hlog, by simp [hnone, hret.no_failure], by simp [hnone], by simp [hnone], absurd hnone⟩
  · cases hrec with
    | unfaulted _ hfault => exact absurd hfault hnone
    | reset _ _ _ _ hfault => exact absurd hfault hnone
    | @transport w l tx hq hlog hret =>
      have hlog : (transportError w).log = s.log ++ (l ++ [⟨tx, none⟩]) := hlog
      exact ⟨_, hlog, iff_of_true ⟨⟨tx, none⟩, by simp, rfl⟩ rfl,
        fun _ => ⟨⟨l, tx, rfl, hret⟩, rfl, rfl⟩, nofun, fun _ => ⟨rfl, rfl, hq, rfl, rfl, rfl, rfl, rfl, rfl⟩⟩
    | @protocol w l rx4 rx5 rx6 hq hfault hlog hret hread hts =>
      have hlatched : (protocolStateError w).fault = .protocolState := hfault
      have hall : Returned (l ++ [⟨[0x04, 0x1D], some rx4⟩, ⟨fillTx, some rx5⟩, ⟨modeAndTx, some rx6⟩]) :=
        hret.append (by simp [Returned])
      refine ⟨_, hlog, iff_of_false hall.no_failure (by simp [hlatched]), by simp [hlatched],
        fun _ => ⟨⟨l, rx4, rx5, rx6, rfl, hread⟩, hts, rfl, rfl⟩, fun _ => ⟨?_, rfl, hq, rfl, rfl, rfl, rfl, rfl, rfl⟩⟩
      simp [protocolStateError, hfault]

end Sys2Proof.Proofs
end

section
/-!
PROOFS. The state FAULT (60_exceptions.md R290), and the session's tick (R300 to R304): where no reset is to come a
request publishes a result, so a tick is its INVENTORY, and after it the loss of the tracked tag and the finding of a
new one.
-/

namespace Sys2Proof.Proofs

open Sys2Proof Sys2Proof.Machine

/-! ## The state FAULT -/

theorem req_ready_of_fault {s : State} (h : s.st = .fault) : s.req_ready = false := by
  simp [State.req_ready, State.busy, h]

theorem exec_of_fault {s : State} (h : s.st = .fault) (i : Instr) : exec i s = .next s := by
  cases hi : isChipCommand i with
  | false => rw [exec_request hi, request_held (req_ready_of_fault h)]
  | true =>
    obtain ⟨op, -, hexec, -⟩ := exec_chipCommand hi s
    rw [hexec, runAlone, if_pos h]

/-- In FAULT the unit stands until a reset (R290). -/
theorem runUnit_of_fault {s : State} (h : s.st = .fault) :
    runUnit s = if s.rst = [] then .fault (.latched s.fault) else .next s := by
  simp [runUnit, runBusy, State.running, h]

theorem step_of_fault {s : State} (h : s.st = .fault) (hrst : s.rst.head? ≠ some 0) :
    step s = if oneNearer s.rst = [] then .fault (.latched s.fault) else .next { s with rst := oneNearer s.rst } :=
  (step_of_not_due hrst).trans (runUnit_of_fault (s := { s with rst := oneNearer s.rst }) h)

/-- Settles O11: nothing is accepted, nothing runs alone, and a step only brings a reset nearer. -/
theorem faultStateHolds : Obligations.FaultStateHolds := by
  intro s h
  refine ⟨req_ready_of_fault h, exec_of_fault h, fun hrst => ?_, fun n rest hrst => ?_⟩
  · rw [step_of_fault h (by simp [hrst]), hrst]
    rfl
  · rw [step_of_fault h (by simp [hrst]), hrst]
    rfl

/-! ## A request of the tick -/

/-- Where no reset is to come none is taken, and none is to come after a request without a fault. -/
theorem Recorded.of_no_reset {start : List Xchg} {q : Request} {t : State} (h : Recorded start [] q t) :
    t.st ≠ .ready ∧ (t.fault = .none → t.rst = []) := by
  cases h with
  | unfaulted hcarries _ hst => exact ⟨hst, fun _ => hcarries.rst rfl⟩
  | reset hne => exact absurd rfl hne
  | transport => exact ⟨nofun, nofun⟩
  | protocol _ hfault => simp [protocolStateError, hfault]

/-- Without a fault, and with no reset to come, a request leaves the unit in DONE with its result. -/
theorem request_done {q : Request} {s : State} (hr : s.req_ready = true) (hs : s.rst = [])
    (hfault : (request q s).fault = .none) :
    (request q s).st = .done ∧ (request q s).rsp_valid = true ∧ (request q s).rst = [] := by
  have hrec := recorded_request (q := q) hr
  rw [hs] at hrec
  obtain ⟨hready, hrst⟩ := hrec.of_no_reset
  cases atRest_of_accepted (q := q) hr with
  | ready hst => exact absurd hst hready
  | done hst _ hvalid => exact ⟨hst, hvalid, hrst hfault⟩
  | transport _ hlatched | protocol _ hlatched => cases hlatched.symm.trans hfault

/-- A result of the class OK is not a fault's. -/
theorem AtRest.fault_of_ok {s : State} (h : AtRest s) (hok : s.r_cls = .ok) : s.fault = .none := by
  cases h with
  | ready _ hfault | done _ hfault => exact hfault
  | transport _ _ _ hcls | protocol _ _ _ hcls => cases hcls.symm.trans hok

/-! ## The moves of the session -/

theorem sessionUid_eq (x : Session) : sessionUid x = trackedUid x := by cases x <;> rfl

/-- The event of dropping the tracked tag. -/
def lossOf (x : Session) : List Event := ((trackedUid x).map fun u => Event.tagLost u).toList

theorem dropTag_eq (s : State) :
    dropTag s = { s with session := .noTag, events := s.events ++ lossOf s.session } := by
  unfold dropTag
  cases hs : s.session with
  | noTag => simp [sessionUid, lossOf, trackedUid, ← hs]
  | tagPresent uid bs nb => simp [sessionUid, lossOf, trackedUid]

theorem tickGoesOn_iff {s : State} : tickGoesOn s = true ↔ s.rsp_valid = true ∧ s.fault = .none := by
  simp [tickGoesOn]

theorem adoptTag_of_not_ok {uid : Uid} {s : State} (h : s.r_cls ≠ .ok) : adoptTag uid s = s := by
  simp [adoptTag, h]

/-- The state with the tag adopted (R302). -/
def adopted (uid : Uid) (info : TagInfo) (s : State) : State :=
  { s with
    session := .tagPresent uid info.blockSize info.numBlocks
    events := s.events ++ [.tagFound ⟨uid, info.blockSize, info.numBlocks⟩] }

theorem adoptTag_of_ok {uid : Uid} {info : TagInfo} {s : State} (hgoes : tickGoesOn s = true) (hok : s.r_cls = .ok)
    (hinfo : s.r_info = some info) : adoptTag uid s = adopted uid info s := by
  simp [adoptTag, hgoes, hok, hinfo, adopted]

/-- The tag is adopted or the session stays. -/
theorem adoptTag_cases (uid : Uid) (s : State) :
    adoptTag uid s = s ∨ ∃ info : TagInfo, adoptTag uid s = adopted uid info s := by
  unfold adoptTag
  split
  · split
    · exact .inl rfl
    · exact .inr ⟨_, rfl⟩
  · exact .inl rfl

/-- The request for the new tag's record (R302), once the old tag is dropped. -/
def askedFor (uid : Uid) (s : State) : State :=
  request (.op (.getSystemInformation Config.defaultReqFlags (some uid))) (dropTag s)

/-- Where no reset is to come and that request ends OK, the tick goes on. -/
theorem askedFor_goesOn {uid : Uid} {s : State} (hst : s.st = .done) (hfault : s.fault = .none) (hrst : s.rst = [])
    (hok : (askedFor uid s).r_cls = .ok) : tickGoesOn (askedFor uid s) = true := by
  have hready : (dropTag s).req_ready = true := by
    rw [dropTag_eq]
    simp [State.req_ready, State.busy, hst, hfault]
  have hfault' : (askedFor uid s).fault = .none := (atRest_of_accepted hready).fault_of_ok hok
  obtain ⟨-, hvalid, -⟩ := request_done hready (by rw [dropTag_eq]; exact hrst) hfault'
  exact tickGoesOn_iff.2 ⟨hvalid, hfault'⟩

/-! ### A tick from the state its INVENTORY left (R302): the same tag or none, a loss, a new tag -/

theorem tickInventoried_same {s : State} (h : inventoryUid s = trackedUid s.session) : tickInventoried s = s := by
  simp [tickInventoried, sessionUid_eq, h]

theorem tickInventoried_lost {s : State} (h : inventoryUid s ≠ trackedUid s.session) (hnew : inventoryUid s = none) :
    tickInventoried s = dropTag s := by
  rw [hnew] at h
  simp [tickInventoried, sessionUid_eq, hnew, h]

theorem tickInventoried_new {s : State} {uid : Uid} (h : inventoryUid s ≠ trackedUid s.session)
    (hnew : inventoryUid s = some uid) : tickInventoried s = adoptTag uid (askedFor uid s) := by
  rw [hnew] at h
  simp [tickInventoried, sessionUid_eq, hnew, h, askedFor]

theorem tick_of_goesOn {s : State} (h : tickGoesOn (request (.op .inventory) s) = true) :
    tick s = tickInventoried (request (.op .inventory) s) := by
  simp [tick, h]

theorem tick_of_stops {s : State} (h : tickGoesOn (request (.op .inventory) s) = false) :
    tick s = request (.op .inventory) s := by
  simp [tick, h]

/-- A step that takes HOST's tick. -/
theorem step_tick {s : State} {rest : List HostMove} (hh : s.host = .tick :: rest) (hr : s.req_ready = true)
    (hrst : s.rst.head? ≠ some 0) (hp : s.chip_port = none) :
    step s = .next (tick { s with host := rest, rst := oneNearer s.rst }) := by
  rw [step_of_not_due hrst, runUnit_host (s := { s with rst := oneNearer s.rst }) hp hr, runHost]
  simp only [hh]

/-- Settles O51: the INVENTORY has published, and the session moves as R302 says. -/
theorem tickOutcome : Obligations.TickOutcome := by
  intro s s1 rest hh hr hrst hp hexec new old lost dropped
  have hs1 : request (.op .inventory) { s with host := rest } = s1 := by cases hexec; rfl
  have hstep : step s = .next (tick { s with host := rest }) := by
    have hstays : oneNearer s.rst = s.rst := by rw [hrst]; rfl
    rw [step_tick hh hr (by simp [hrst]) hp, hstays]
  have hsession : s1.session = s.session := hs1 ▸ (extends_request _ { s with host := rest }).session
  have hold : trackedUid s1.session = old := congrArg trackedUid hsession
  have hnew : inventoryUid s1 = new := rfl
  have hdrop : dropTag s1 = dropped := by rw [dropTag_eq, hsession]; rfl
  have hdone (hfault : s1.fault = .none) : s1.st = .done ∧ s1.rsp_valid = true ∧ s1.rst = [] := by
    subst hs1
    exact request_done (s := { s with host := rest }) hr hrst hfault
  have hgoes (hfault : s1.fault = .none) : step s = .next (tickInventoried s1) := by
    obtain ⟨-, hvalid, -⟩ := hdone hfault
    have hgoes : tickGoesOn (request (.op .inventory) { s with host := rest }) = true :=
      hs1 ▸ tickGoesOn_iff.2 ⟨hvalid, hfault⟩
    rw [hstep, tick_of_goesOn hgoes, hs1]
  refine ⟨fun hfault => ?_, fun hfault hsame => ?_, fun hfault hdiff hnone => ?_,
    fun u s2 hfault hdiff hsome hexec2 => ?_⟩
  · rw [hstep, tick_of_stops (by simp [tickGoesOn, hs1, hfault]), hs1]
  · rw [hgoes hfault, tickInventoried_same (by rw [hnew, hold, hsame])]
  · rw [hgoes hfault, tickInventoried_lost (by rw [hnew, hold]; exact hdiff) hnone, hdrop]
  · obtain ⟨hst, -, hrst1⟩ := hdone hfault
    have hasked : askedFor u s1 = s2 := by
      rw [askedFor, hdrop]
      cases hexec2
      rfl
    have hnext : step s = .next (adoptTag u s2) := by
      rw [hgoes hfault, tickInventoried_new (by rw [hnew, hold]; exact hdiff) hsome, hasked]
    refine ⟨fun hcls => by rw [hnext, adoptTag_of_not_ok hcls], fun info hok hinfo => ?_⟩
    have hgoes2 : tickGoesOn s2 = true := hasked ▸ askedFor_goesOn hst hfault hrst1 (by rw [hasked, hok])
    rw [hnext, adoptTag_of_ok hgoes2 hok hinfo, adopted]

/-! ## The events of a tick -/

theorem lossOf_cases (x : Session) :
    x = .noTag ∧ lossOf x = [] ∨ ∃ u : Uid, trackedUid x = some u ∧ lossOf x = [.tagLost u] := by
  cases x with
  | noTag => exact .inl ⟨rfl, rfl⟩
  | tagPresent u bs nb => exact .inr ⟨u, rfl, rfl⟩

/-- What a tick that began with the session `x` and the events `before` may emit: at most one loss, then at most one
find, and the session as they say (R303). -/
def Emits (x : Session) (before : List Event) (t : State) : Prop :=
  ∃ lost found : List Event, t.events = before ++ lost ++ found ∧
    (lost = [] ∨ ∃ u : Uid, trackedUid x = some u ∧ lost = [.tagLost u]) ∧
    (found = [] ∧ (lost = [] → t.session = x) ∧ (lost ≠ [] → t.session = .noTag) ∨
      ∃ (u : Uid) (bs nb : Nat), found = [.tagFound ⟨u, bs, nb⟩] ∧ t.session = .tagPresent u bs nb ∧
        trackedUid x ≠ some u ∧ (x = .noTag ∨ lost ≠ []))

theorem emits_nothing {x : Session} {before : List Event} {t : State} (hs : t.session = x) (he : t.events = before) :
    Emits x before t :=
  ⟨[], [], by simp [he], .inl rfl, .inl ⟨rfl, fun _ => hs, absurd rfl⟩⟩

theorem emits_loss {x : Session} {before : List Event} {t : State} (hs : t.session = .noTag)
    (he : t.events = before ++ lossOf x) : Emits x before t := by
  refine ⟨lossOf x, [], by simp [he], ?_⟩
  rcases lossOf_cases x with ⟨rfl, hl⟩ | ⟨u, hu, hl⟩
  · exact ⟨.inl hl, .inl ⟨rfl, fun _ => hs, fun _ => hs⟩⟩
  · exact ⟨.inr ⟨u, hu, hl⟩, .inl ⟨rfl, by simp [hl], fun _ => hs⟩⟩

theorem emits_find {x : Session} {before : List Event} {t : State} {u : Uid} {info : TagInfo}
    (he : t.events = before ++ lossOf x) (hu : trackedUid x ≠ some u) : Emits x before (adopted u info t) := by
  have he' : (adopted u info t).events = before ++ lossOf x ++ [.tagFound ⟨u, info.blockSize, info.numBlocks⟩] := by
    rw [adopted, he]
  refine ⟨lossOf x, _, he', ?_⟩
  rcases lossOf_cases x with ⟨hx, hl⟩ | ⟨v, hv, hl⟩
  · exact ⟨.inl hl, .inr ⟨u, _, _, rfl, rfl, hu, .inl hx⟩⟩
  · exact ⟨.inr ⟨v, hv, hl⟩, .inr ⟨u, _, _, rfl, rfl, hu, .inr (by simp [hl])⟩⟩

/-- The rest of a tick, whether its second request publishes or is cut short by a reset (log 16). -/
theorem tickInventoried_emits (s : State) :
    (tickInventoried s).host = s.host ∧ Emits s.session s.events (tickInventoried s) := by
  by_cases hsame : inventoryUid s = trackedUid s.session
  · rw [tickInventoried_same hsame]
    exact ⟨rfl, emits_nothing rfl rfl⟩
  · cases hnew : inventoryUid s with
    | none =>
      rw [tickInventoried_lost hsame hnew, dropTag_eq]
      exact ⟨rfl, emits_loss rfl rfl⟩
    | some u =>
      have hext : Extends (dropTag s) (askedFor u s) := extends_request _ _
      rw [dropTag_eq] at hext
      rw [tickInventoried_new hsame hnew]
      rcases adoptTag_cases u (askedFor u s) with h | ⟨info, h⟩ <;> rw [h]
      · exact ⟨hext.host, emits_loss hext.session hext.events⟩
      · exact ⟨hext.host, emits_find hext.events fun hu => hsame (hnew.trans hu.symm)⟩

theorem tick_emits (s : State) : (tick s).host = s.host ∧ Emits s.session s.events (tick s) := by
  have hext := extends_request (.op .inventory) s
  cases hgoes : tickGoesOn (request (.op .inventory) s) with
  | false =>
    rw [tick_of_stops hgoes]
    exact ⟨hext.host, emits_nothing hext.session hext.events⟩
  | true =>
    have h := tickInventoried_emits (request (.op .inventory) s)
    rw [hext.session, hext.events, hext.host] at h
    rwa [tick_of_goesOn hgoes]

/-- Settles O52: a step that takes HOST's tick is that tick. -/
theorem tickEvents : Obligations.TickEvents := by
  intro s t rest hh hr hrst hp hstep
  rw [step_tick hh hr hrst hp] at hstep
  cases hstep
  exact tick_emits { s with host := rest, rst := oneNearer s.rst }

end Sys2Proof.Proofs
end

section
/-!
PROOFS. Reset (70_reset_and_hazards.md R320 to R323), and what an operation of the chip port takes from the machine
around the unit: the CHIP's answers one by one, a bounded number of them, and the sampling points of `rst` (log 6, log 9).
-/

namespace Sys2Proof.Proofs

open Sys2Proof Sys2Proof.Machine

/-! ## A reset that is due -/

theorem not_running_iff {s : State} : s.running = false ↔ s.st = .ready ∨ s.st = .done ∨ s.st = .fault := by
  rw [← Bool.not_eq_true, running_iff]
  tauto

/-- A reset drops what is known of the chip's registers only where a request was in progress (R331; log 12). -/
theorem takeReset_chip_img_eq (s : State) :
    (takeReset s).chip_img = if s.st = .ready ∨ s.st = .done ∨ s.st = .fault then s.chip_img else [] := by
  rw [takeReset_chip_img]
  simp only [← not_running_iff]
  cases s.running <;> rfl

theorem step_of_due {s : State} {rest : List Nat} (h : s.rst = 0 :: rest) :
    step s = .next (takeReset { s with rst := rest }) := by
  simp only [step, sampleRst, h, if_pos (show Config.valid = true by decide)]

/-- Settles O10: the sampling before the step takes the reset, and the unit does nothing more. -/
theorem resetTaken : Obligations.ResetTaken := by
  intro s rest h
  rw [step_of_due h, ← takeReset_chip_img_eq { s with rst := rest }]
  rfl

/-! ## What an operation of the chip port takes -/

/-- What the unit takes from around it and leaves there: the log, the CHIP's answers and the resets to come. -/
def supply (s : State) : List Xchg × List ChipAnswer × Nat × List Nat := (s.log, s.chip_in, s.nx, s.rst)

/-- From `s` to `t` the exchanges `l` were made, which all returned, each with one of the CHIP's answers, and no reset
was taken. -/
structure Supplied (s t : State) (l : List Xchg) : Prop where
  log : t.log = s.log ++ l
  chip_in : t.chip_in = s.chip_in.drop l.length
  nx : t.nx = s.nx + l.length
  returned : Returned l
  tail : t.rst.tail = s.rst.tail
  none_to_come : s.rst = [] → t.rst = []

theorem Supplied.of_eq {s t : State} (h : supply t = supply s) : Supplied s t [] := by
  simp only [supply, Prod.mk.injEq] at h
  obtain ⟨hlog, hin, hnx, hrst⟩ := h
  exact ⟨by simp [hlog], hin, hnx, returned_nil, by rw [hrst], hrst.trans⟩

theorem Supplied.trans {s t u : State} {l l' : List Xchg} (h : Supplied s t l) (h' : Supplied t u l') :
    Supplied s u (l ++ l') where
  log := by rw [h'.log, h.log, List.append_assoc]
  chip_in := by rw [h'.chip_in, h.chip_in, List.drop_drop, List.length_append]
  nx := by rw [h'.nx, h.nx, List.length_append, Nat.add_assoc]
  returned := h.returned.append h'.returned
  tail := h'.tail.trans h.tail
  none_to_come := h'.none_to_come ∘ h.none_to_come

/-- All that an operation of at most `n` exchanges can do: return, end the request in FAULT at an exchange that fails,
or end it where a reset is taken, the request still in progress. -/
inductive Takes (n : Nat) (s : State) : Port → Prop where
  | done {t : State} {l : List Xchg} : Supplied s t l → l.length ≤ n → t.st = s.st → t.now = s.now →
      Takes n s (.done t)
  | failed {t : State} {l : List Xchg} : t.log = s.log ++ l → l.length ≤ n → t.st = .fault → t.now = s.now →
      Takes n s (.ended t)
  | reset {w : State} {l : List Xchg} {rest : List Nat} : Supplied s w l → l.length ≤ n → w.st = s.st →
      w.rst = 0 :: rest → Takes n s (.ended (takeReset { w with rst := rest }))

/-- An operation that makes no exchange. -/
theorem Takes.silent {s t : State} (h : supply t = supply s) (hst : t.st = s.st) (hnow : t.now = s.now) :
    Takes 0 s (.done t) :=
  .done (.of_eq h) le_rfl hst hnow

theorem takes_sampleRst (s : State) : Takes 0 s (sampleRst s) := by
  rcases sampleRst_cases s with ⟨-, h⟩ | ⟨n, rest, hrst, h⟩ | ⟨rest, hrst, h⟩ <;> rw [h]
  · exact .silent rfl rfl rfl
  · have hnearer : Supplied s { s with rst := n :: rest } [] :=
      ⟨by simp, rfl, rfl, returned_nil, by simp [hrst], fun hnil => by simp [hnil] at hrst⟩
    exact .done hnearer le_rfl rfl rfl
  · exact .reset (.of_eq rfl) le_rfl rfl hrst

theorem Takes.bind {n m : Nat} {s : State} {p : Port} {f : State → Port} (hp : Takes n s p)
    (hf : ∀ t : State, Takes m t (f t)) : Takes (n + m) s (p.bind f) := by
  cases hp with
  | failed hlog hn hst hnow => exact .failed hlog (hn.trans (Nat.le_add_right n m)) hst hnow
  | reset hs hn hst hrst => exact .reset hs (hn.trans (Nat.le_add_right n m)) hst hrst
  | @done t l hs hn hst hnow =>
    rw [Port.bind]
    have hlen {l' : List Xchg} (hm : l'.length ≤ m) : (l ++ l').length ≤ n + m := by
      rw [List.length_append]
      exact Nat.add_le_add hn hm
    cases hft : f t with
    | done u =>
      obtain ⟨hs', hm, hst', hnow'⟩ := hft ▸ hf t
      exact .done (hs.trans hs') (hlen hm) (hst'.trans hst) (hnow'.trans hnow)
    | ended u =>
      cases hft ▸ hf t with
      | failed hlog hm hst' hnow' =>
        exact .failed (by rw [hlog, hs.log, List.append_assoc]) (hlen hm) hst' (hnow'.trans hnow)
      | reset hs' hm hst' hrst => exact .reset (hs.trans hs') (hlen hm) (hst'.trans hst) hrst

theorem takes_exchange (tx : Bytes) (s : State) : Takes 1 s (exchange tx s) := by
  refine (takes_sampleRst s).bind (m := 1) fun t => ?_
  split
  · exact .failed (l := [⟨tx, none⟩]) rfl le_rfl rfl rfl
  · next rx _ =>
    have hlogged : Supplied t (logXchg tx (some rx) t) [⟨tx, some rx⟩] :=
      ⟨rfl, by simp, rfl, by simp [Returned], rfl, id⟩
    exact .done (hlogged.trans (.of_eq rfl)) le_rfl rfl rfl

theorem takes_command (i : Instr) (eff : ChipEffect) (s : State) : Takes 1 s (command i eff s) :=
  (takes_exchange _ s).bind (m := 0) fun _ => .silent rfl rfl rfl

theorem takes_query (i : Instr) (n : Nat) (s : State) : Takes 2 s (query i n s) := by
  refine (takes_exchange _ s).bind (m := 1) fun t => ?_
  split
  · exact .done (.of_eq rfl) (Nat.zero_le 1) rfl rfl
  · exact takes_exchange _ t

theorem takes_regRead (a : Byte) (s : State) : Takes 2 s (regRead a s) := takes_query _ _ s

theorem takes_clearIrq (s : State) : Takes 1 s (clearIrq s) := takes_command _ _ s

theorem takes_setMode_idle (s : State) : Takes 1 s (setMode Config.modeIdle s) :=
  (takes_command _ _ s).bind (m := 0) fun _ => .silent rfl rfl rfl

theorem takes_setMode_transceive (s : State) : Takes 2 s (setMode Config.modeTransceive s) :=
  (takes_command _ _ s).bind (m := 1) fun t => takes_command _ _ t

end Sys2Proof.Proofs
end

section
/-!
PROOFS. The bounds of a request (70_reset_and_hazards.md R336): the exchanges and waits it may still make are counted
from every state of R22, and each step of the unit pays for what it does. So no request passes its bound, whatever the
CHIP answers and whenever a reset comes.
-/

namespace Sys2Proof.Proofs

open Sys2Proof Sys2Proof.Machine

/-! ## What a request has left -/

theorem samplesA_eq : Config.samplesA = 2 := rfl
theorem samplesB_eq : Config.samplesB = 51 := rfl

/-- The exchanges from a state of R22 to the end of its transceive at most, 117 in all (41_transceive.md R163). -/
def transceiveExchanges (s : State) : Nat :=
  match s.st with
  | .xClr => 117
  | .xMode => 116
  | .xChk => 114
  | .xSend => 112
  | .xASample | .xAWait => 5 + 2 * Config.samplesB + 2 * (Config.samplesA - s.smp)
  | .xBSample | .xBWait => 5 + 2 * (Config.samplesB - s.smp)
  | .xRxstat => 5
  | .xRxdata => 3
  | .xRestore => 1
  | _ => 0

/-- The waits there at most: one fewer than the samples in each phase. -/
def transceiveWaits (s : State) : Nat :=
  match s.st with
  | .xClr | .xMode | .xChk | .xSend => 51
  | .xASample => (Config.samplesA - 1 - s.smp) + (Config.samplesB - 1)
  | .xAWait => (Config.samplesA - s.smp) + (Config.samplesB - 1)
  | .xBSample => Config.samplesB - 1 - s.smp
  | .xBWait => Config.samplesB - s.smp
  | _ => 0

/-- The exchanges of CODEC at most (40_chip_port.md R127 to R132). -/
def codecExchanges : Request → Nat
  | .op (.regWrite _ _) | .op (.regOr _ _) | .op (.regAnd _ _) => 1
  | .op .chipIdle | .op (.regRead _) | .op (.eepromRead _ _) => 2
  | _ => 0

/-- R336's bound on what is latched in `rq`. -/
def latchedBound (bound : Instr → Nat) : Request → Nat
  | .op i => bound i
  | .illegal _ => 0

/-- The exchanges the request in progress still makes at most. -/
def exchangesLeft (s : State) : Nat :=
  match s.st with
  | .ready | .done | .fault => 0
  | .validate => latchedBound exchangeBound s.rq
  | .codec => codecExchanges s.rq
  | _ => transceiveExchanges s + 117 * chunksLeft s

/-- The waits it still makes at most. -/
def waitsLeft (s : State) : Nat :=
  match s.st with
  | .ready | .done | .fault | .codec => 0
  | .validate => latchedBound waitBound s.rq
  | _ => transceiveWaits s + 51 * chunksLeft s

/-- In a transceive, or back from it. -/
def OnAir (s : State) : Prop := inTransceive s.st = true ∨ s.st = returnState s.rq

theorem left_of_onAir {s : State} (h : OnAir s) :
    exchangesLeft s = transceiveExchanges s + 117 * chunksLeft s ∧
      waitsLeft s = transceiveWaits s + 51 * chunksLeft s ∧ s.running = true := by
  rcases h with h | h
  · unfold exchangesLeft waitsLeft
    rw [running_iff]
    cases hst : s.st <;> simp [inTransceive, hst] at h ⊢
  · rcases returnState_cases s.rq with hq | hq | hq <;> simp [exchangesLeft, waitsLeft, running_iff, h, hq]

theorem st_ne_ready_of_running {s : State} (h : s.running = true) : s.st ≠ .ready := (running_iff.1 h).1

/-! ## What a step spends -/

/-- From `s` to `t` in at most `x` exchanges and `w` waits, what `t` has left counted in: the request goes on or has
published, an exchange failed, or a reset was taken while it was in progress. -/
inductive Spends (x w : Nat) (s : State) : State → Prop where
  | goesOn {t : State} {l : List Xchg} : Supplied s t l → l.length + exchangesLeft t ≤ x →
      t.now + waitsLeft t ≤ s.now + w → t.st ≠ .ready → Spends x w s t
  | failed {t : State} {l : List Xchg} : t.log = s.log ++ l → l.length ≤ x → t.now ≤ s.now + w → t.st = .fault →
      Spends x w s t
  | reset {v : State} {l : List Xchg} {rest : List Nat} : Supplied s v l → l.length ≤ x → v.running = true →
      v.rst = 0 :: rest → Spends x w s (takeReset { v with rst := rest })

/-- One step of the unit spends of what was left. -/
abbrev Spent (s t : State) : Prop := Spends (exchangesLeft s) (waitsLeft s) s t

/-- After exchanges and waits that are paid for. -/
theorem Spends.after {x y w v : Nat} {s t u : State} {l : List Xchg} (h : Spends x w t u) (hs : Supplied s t l)
    (hx : l.length + x ≤ y) (hw : t.now + w ≤ s.now + v) : Spends y v s u := by
  cases h with
  | goesOn hs' hx' hw' hst => exact .goesOn (hs.trans hs') (by rw [List.length_append]; omega) (by omega) hst
  | failed hlog hx' hw' hst =>
    exact .failed (by rw [hlog, hs.log, List.append_assoc]) (by rw [List.length_append]; omega) (by omega) hst
  | reset hs' hx' hrun hrst => exact .reset (hs.trans hs') (by rw [List.length_append]; omega) hrun hrst

theorem Spends.trans {x w : Nat} {s t u : State} (h : Spends x w s t) (hrun : t.running = true) (h' : Spent t u) :
    Spends x w s u := by
  cases h with
  | goesOn hs hx hw _ => exact h'.after hs hx hw
  | failed _ _ _ hst => simp [State.running, hst] at hrun
  | reset => cases hrun

/-- A move of the unit's registers. -/
theorem Spends.moved {x w : Nat} {s t : State} (hs : supply t = supply s) (hnow : t.now = s.now)
    (hx : exchangesLeft t ≤ x) (hw : waitsLeft t ≤ w) (hst : t.st ≠ .ready) : Spends x w s t :=
  .goesOn (.of_eq hs) (by simpa using hx) (by omega) hst

theorem Spends.publish {x w : Nat} (r : Rsp) (s : State) : Spends x w s (publish r s) := by
  refine .moved rfl rfl ?_ ?_ (quiet_publish r s).st <;>
    by_cases h : s.fault = .none <;> simp [exchangesLeft, waitsLeft, h]

/-- An operation of the chip port, and what follows it. -/
theorem Takes.spends {n x y w : Nat} {s : State} {p : Port} {f : State → State} (hp : Takes n s p)
    (hrun : s.running = true) (hy : n + x ≤ y) (hf : ∀ t : State, p = .done t → Spends x w t (f t)) :
    Spends y w s (p.andThen f) := by
  cases hp with
  | done hs hn hst hnow => exact (hf _ rfl).after hs (by omega) (by omega)
  | failed hlog hn hst hnow => exact .failed hlog (by omega) (hnow.le.trans (Nat.le_add_right _ _)) hst
  | reset hs hn hst hrst => exact .reset hs (by omega) (by simpa only [running_iff, hst] using hrun) hrst

/-! ## The transceive -/

/-- After `n` exchanges a transceive goes on from `s` to `t`: only registers move. -/
structure Advances (n : Nat) (s t : State) : Prop where
  supply : supply t = supply s
  now : t.now = s.now
  chunks : chunksLeft t = chunksLeft s
  onAir : OnAir t
  cost : n + transceiveExchanges t ≤ transceiveExchanges s ∧ transceiveWaits t ≤ transceiveWaits s

/-- Exchanges by themselves change nothing of what is left. -/
theorem Exchanged.left {s t : State} (h : Exchanged s t) : chunksLeft t = chunksLeft s ∧
    transceiveExchanges t = transceiveExchanges s ∧ transceiveWaits t = transceiveWaits s := by
  simp only [chunksLeft, transceiveExchanges, transceiveWaits, h.st, h.smp, h.rq, h.m_nblk, h.m_idx, and_self]

theorem Advances.spends {n : Nat} {s t u : State} (h : Advances n t u) (hs : inTransceive s.st = true)
    (ht : Exchanged s t) : Spends (exchangesLeft s - n) (waitsLeft s) t u := by
  obtain ⟨hsupply, hnow, hchunks, hair, hcostx, hcostw⟩ := h
  obtain ⟨hx, hw, -⟩ := left_of_onAir (.inl hs)
  obtain ⟨hx', hw', hrun⟩ := left_of_onAir hair
  obtain ⟨hchunks', hcostx', hcostw'⟩ := ht.left
  exact .moved hsupply hnow (by omega) (by omega) (st_ne_ready_of_running hrun)

/-- A state of a transceive: an operation of the chip port that it can pay for, and a move of the registers. -/
theorem Takes.spent {n : Nat} {s : State} {p : Port} {f : State → State} (ht : Takes n s p) (hp : RunsFrom s p)
    (hs : inTransceive s.st = true) (hn : n ≤ transceiveExchanges s)
    (hf : ∀ t : State, Exchanged s t → Advances n t (f t)) : Spent s (p.andThen f) := by
  obtain ⟨hx, -, hrun⟩ := left_of_onAir (.inl hs)
  refine ht.spends (x := exchangesLeft s - n) hrun (by omega) fun t hdone => ?_
  have hex : Exchanged s t := (hdone ▸ hp : RunsFrom s (.done t))
  exact (hf t hex).spends hs hex

theorem spent_xClr {s : State} (h : s.st = .xClr) : Spent s (xClr s) :=
  (takes_clearIrq s).spent (runsFrom_clearIrq s) (by rw [h]; rfl) (by simp [transceiveExchanges, h]) fun t ht =>
    ⟨rfl, rfl, rfl, .inl rfl, by simp [transceiveExchanges, transceiveWaits, ht.st, h]⟩

theorem spent_xMode {s : State} (h : s.st = .xMode) : Spent s (xMode s) :=
  (takes_setMode_transceive s).spent (runsFrom_setMode _ s) (by rw [h]; rfl) (by simp [transceiveExchanges, h])
    fun t ht => ⟨rfl, rfl, rfl, .inl rfl, by simp [transceiveExchanges, transceiveWaits, ht.st, h]⟩

/-- The cleanup where the WAIT_TRANSMIT check fails is one exchange (41_transceive.md R144). -/
theorem spends_cleanup {x w : Nat} {s : State} (hrun : s.running = true) (hx : 1 ≤ x) :
    Spends x w s ((setMode Config.modeIdle { s with fault := .protocolState }).andThen protocolStateError) := by
  have hcleanup : Spends x w { s with fault := .protocolState }
      ((setMode Config.modeIdle { s with fault := .protocolState }).andThen protocolStateError) :=
    (takes_setMode_idle _).spends (x := 0) hrun hx fun u _ => .publish _ u
  exact hcleanup.after (.of_eq rfl) (Nat.zero_add x).le le_rfl

theorem spent_xChk {s : State} (h : s.st = .xChk) : Spent s (xChk s) := by
  have hs : inTransceive s.st = true := by rw [h]; rfl
  obtain ⟨hx, -, hrun⟩ := left_of_onAir (.inl hs)
  have hpays : 114 = transceiveExchanges s := by simp [transceiveExchanges, h]
  refine (takes_regRead _ s).spends (x := exchangesLeft s - 2) hrun (by omega) fun t hread => ?_
  have hex : Exchanged s t := (hread ▸ runsFrom_regRead _ s : RunsFrom s (.done t))
  unfold chkTransmit
  split
  · have hsend : Advances 2 t { t with ts := bitField 3 Config.tsLsb (u32le t.ret), st := .xSend } :=
      ⟨rfl, rfl, rfl, .inl rfl, by simp [transceiveExchanges, transceiveWaits, hex.st, h]⟩
    exact hsend.spends hs hex
  · have hrun' : t.running = true := by simpa only [running_iff, hex.st] using hrun
    have hcleanup := spends_cleanup (x := exchangesLeft s - 2) (w := waitsLeft s)
      (s := { t with ts := bitField 3 Config.tsLsb (u32le t.ret) }) hrun' (by omega)
    exact hcleanup.after (.of_eq rfl) (Nat.zero_add _).le le_rfl

theorem spent_xSend {s : State} (h : s.st = .xSend) : Spent s (xSend s) :=
  Takes.spent (takes_exchange _ s) (runsFrom_sendData _ s) (by rw [h]; rfl) (by simp [transceiveExchanges, h])
    fun t ht => ⟨rfl, rfl, rfl, .inl rfl, by
      simp [transceiveExchanges, transceiveWaits, ht.st, h, samplesA_eq, samplesB_eq]⟩

/-- A sample of phase A, its deadline not passed (R148). -/
theorem advances_aSampled {s : State} (h : s.st = .xASample) (hsmp : s.smp < 2) (v : Word) :
    Advances 2 s (aSampled { s with irq := v, smp := s.smp + 1 }) := by
  unfold aSampled
  split_ifs with _ hlast
  all_goals refine ⟨rfl, rfl, rfl, .inl rfl, ?_⟩
  all_goals simp only [noAnswerResult, transceiveExchanges, transceiveWaits, h, samplesA_eq, samplesB_eq]
  all_goals omega

/-- A sample of phase B, its deadline not passed (R152). -/
theorem advances_bSampled {s : State} (h : s.st = .xBSample) (hsmp : s.smp < 51) (v : Word) :
    Advances 2 s (bSampled { s with irq := v, smp := s.smp + 1 }) := by
  unfold bSampled
  split_ifs with _ hlast
  all_goals refine ⟨rfl, rfl, rfl, .inl rfl, ?_⟩
  all_goals simp only [noAnswerResult, transceiveExchanges, transceiveWaits, h, samplesB_eq]
  all_goals omega

theorem spent_xASample {s : State} (h : s.st = .xASample) (hsmp : s.smp < 2) : Spent s (xASample s) :=
  (takes_regRead _ s).spent (runsFrom_regRead _ s) (by rw [h]; rfl) (by simp [transceiveExchanges, h]; omega)
    fun _ ht => advances_aSampled (ht.st.trans h) (ht.smp ▸ hsmp) _

theorem spent_xBSample {s : State} (h : s.st = .xBSample) (hsmp : s.smp < 51) : Spent s (xBSample s) :=
  (takes_regRead _ s).spent (runsFrom_regRead _ s) (by rw [h]; rfl) (by simp [transceiveExchanges, h]; omega)
    fun _ ht => advances_bSampled (ht.st.trans h) (ht.smp ▸ hsmp) _

theorem spent_xRxstat {s : State} (h : s.st = .xRxstat) : Spent s (xRxstat s) := by
  refine (takes_regRead _ s).spent (runsFrom_regRead _ s) (by rw [h]; rfl) (by simp [transceiveExchanges, h])
    fun t ht => ?_
  dsimp only
  split
  all_goals refine ⟨rfl, rfl, rfl, .inl rfl, ?_⟩
  all_goals simp [noAnswerResult, transceiveExchanges, transceiveWaits, ht.st, h]

theorem spent_xRxdata {s : State} (h : s.st = .xRxdata) : Spent s (xRxdata s) :=
  Takes.spent (takes_query _ _ s) (runsFrom_readData _ s) (by rw [h]; rfl) (by simp [transceiveExchanges, h])
    fun t ht => ⟨rfl, rfl, rfl, .inl rfl, by simp [transceiveExchanges, transceiveWaits, ht.st, h]⟩

theorem spent_xRestore {s : State} (h : s.st = .xRestore) : Spent s (xRestore s) := by
  refine (takes_setMode_idle s).spent (runsFrom_setMode _ s) (by rw [h]; rfl) (by simp [transceiveExchanges, h])
    fun t ht => ⟨rfl, rfl, rfl, .inr rfl, ?_⟩
  rcases returnState_cases t.rq with hq | hq | hq <;> simp [transceiveExchanges, transceiveWaits, ht.st, h, hq]

/-- A wait is one of those left (R149, R153). -/
theorem Spends.waited {s t : State} (hs : inTransceive s.st = true) (ht : inTransceive t.st = true)
    (hsupply : supply t = supply s) (hchunks : chunksLeft t = chunksLeft s)
    (hcost : transceiveExchanges t ≤ transceiveExchanges s ∧ t.now + transceiveWaits t ≤ s.now + transceiveWaits s) :
    Spent s t := by
  obtain ⟨hx, hw, -⟩ := left_of_onAir (.inl hs)
  obtain ⟨hx', hw', hrun⟩ := left_of_onAir (.inl ht)
  exact .goesOn (.of_eq hsupply) (by simp only [List.length_nil]; omega) (by omega) (st_ne_ready_of_running hrun)

theorem spent_xAWait {s : State} (h : s.st = .xAWait) (hsmp : s.smp < 2) : Spent s (xAWait s) := by
  refine .waited (by rw [h]; rfl) rfl rfl rfl ?_
  simp only [xAWait, wait, transceiveExchanges, transceiveWaits, h, samplesA_eq, samplesB_eq]
  omega

theorem spent_xBWait {s : State} (h : s.st = .xBWait) (hsmp : s.smp < 51) : Spent s (xBWait s) := by
  refine .waited (by rw [h]; rfl) rfl rfl rfl ?_
  simp only [xBWait, wait, transceiveExchanges, transceiveWaits, h, samplesB_eq]
  omega

/-! ## Before and after a transceive -/

/-- An operation of CODEC and its publication. -/
theorem Takes.published {n : Nat} {s : State} {p : Port} {f : State → State} (hp : Takes n s p) (h : s.st = .codec)
    (hn : codecExchanges s.rq = n) (hf : ∀ t : State, ∃ r : Rsp, f t = publish r t) : Spent s (p.andThen f) := by
  have hrun : s.running = true := running_iff.2 ⟨by simp [h], by simp [h], by simp [h]⟩
  have hx : n ≤ exchangesLeft s := by simp [exchangesLeft, h, hn]
  refine hp.spends (x := 0) hrun hx fun t _ => ?_
  obtain ⟨r, hr⟩ := hf t
  exact hr ▸ .publish r t

theorem spent_codec {s : State} (h : s.st = .codec) : Spent s (codec s) := by
  unfold codec
  split
  · next hq =>
    exact ((takes_clearIrq s).bind takes_setMode_idle).published h (by rw [hq]; rfl) fun t => ⟨_, rfl⟩
  · next hq => exact (takes_command _ _ s).published h (by rw [hq]; rfl) fun t => ⟨_, rfl⟩
  · next hq => exact (takes_command _ _ s).published h (by rw [hq]; rfl) fun t => ⟨_, rfl⟩
  · next hq => exact (takes_command _ _ s).published h (by rw [hq]; rfl) fun t => ⟨_, rfl⟩
  · next hq => exact (takes_regRead _ s).published h (by rw [hq]; rfl) fun t => ⟨_, rfl⟩
  · next hq => exact (takes_query _ _ s).published h (by rw [hq]; rfl) fun t => ⟨_, rfl⟩
  · exact .publish _ s

theorem spent_decodeStep (s : State) : Spent s (decodeStep s) := by
  unfold decodeStep
  split <;> exact .publish _ s

theorem spent_mRead (s : State) : Spent s (mRead s) := by
  unfold mRead
  split <;> exact .publish _ s

/-- A transceive is entered. -/
theorem left_enterTransceive (f : Bytes) (w : State) :
    exchangesLeft (enterTransceive f w) = 117 * (chunksLeft w + 1) ∧
      waitsLeft (enterTransceive f w) = 51 * (chunksLeft w + 1) := by
  obtain ⟨hx, hw, -⟩ := left_of_onAir (s := enterTransceive f w) (.inl rfl)
  rw [hx, hw]
  exact ⟨Nat.add_comm .., Nat.add_comm ..⟩

theorem Spends.enters {x w : Nat} {s v : State} (f : Bytes) (hsupply : supply v = supply s) (hnow : v.now = s.now)
    (hx : 117 * (chunksLeft v + 1) ≤ x) (hw : 51 * (chunksLeft v + 1) ≤ w) : Spends x w s (enterTransceive f v) := by
  obtain ⟨hx', hw'⟩ := left_enterTransceive f v
  exact .moved hsupply hnow (hx'.trans_le hx) (hw'.trans_le hw) nofun

/-- An acknowledged chunk with one after it: one fewer is to come (44_tag_memory.md R259). -/
theorem chunksLeft_chunkWritten {s : State} (hq : returnState s.rq = .mWchunk)
    (h : (chunkWritten s).m_idx < (chunkWritten s).m_nblk) :
    chunksLeft (chunkWritten s) + 1 = chunksLeft s := by
  have hidx : s.m_idx + 1 < s.m_nblk := h
  simp only [chunksLeft, chunkWritten, hq, if_true]
  omega

theorem spent_mWchunk {s : State} (h : s.st = .mWchunk) (hq : returnState s.rq = .mWchunk) : Spent s (mWchunk s) := by
  obtain ⟨hx, hw, -⟩ := left_of_onAir (s := s) (.inr (h.trans hq.symm))
  unfold mWchunk
  split
  · exact .publish _ s
  · unfold nextChunk
    split
    · next hlt =>
      have hone := chunksLeft_chunkWritten hq hlt
      exact .enters _ rfl rfl (by rw [hone]; omega) (by rw [hone]; omega)
    · exact (Spends.publish _ (chunkWritten s)).after (.of_eq rfl) (Nat.zero_add _).le le_rfl

/-! ## VALIDATE -/

/-- All that VALIDATE can do with a request of HOST's: end it (30_encoding.md R88), start its one transceive or the
first of a MEM_WRITE's, or go to CODEC. -/
inductive Begins (i : Instr) (s : State) : State → Prop where
  | ends {cls : Cls} : earlyEnd i = some cls → Begins i s (publish { cls := cls } s)
  | frame {f : Bytes} : frameOf i = some f → Begins i s (enterTransceive f (s.startedBy i))
  | chunks {tag : TagRec} {offset : Half} {data : Bytes} : i = .memWrite tag offset data →
      memReaches tag offset.toNat data.length = true →
      Begins i s (enterTransceive (chunkTx tag offset.toNat data 0) (s.writeStarted tag offset data))
  | codec : earlyEnd i = none → codecExchanges (.op i) ≠ 0 → Begins i s { s with st := .codec }

theorem memReaches_of_earlyEnd {tag : TagRec} {offset : Half} {data : Bytes}
    (h : earlyEnd (.memWrite tag offset data) = none) : memReaches tag offset.toNat data.length = true := by
  rw [earlyEnd_memWrite] at h
  split_ifs at h
  obtain ⟨hgeometry, hrange, hlen⟩ := checks_of_memEarlyEnd h
  simp [memReaches, hgeometry, hrange, Nat.one_le_iff_ne_zero.2 hlen]

theorem begins_validate {i : Instr} {s : State} (hi : isChipCommand i = false) (hq : s.rq = .op i) :
    Begins i s (validate s) := by
  cases hearly : earlyEnd i with
  | some cls => exact validate_earlyEnd hearly hq ▸ .ends hearly
  | none =>
    cases hf : frameOf i with
    | some f => exact validate_frame hf hq ▸ .frame hf
    | none =>
      cases i
      case memWrite =>
        have hreaches := memReaches_of_earlyEnd hearly
        exact validate_memWrite hreaches hq ▸ .chunks rfl hreaches
      case memRead tag offset length =>
        obtain ⟨hgeometry, hrange, hlen⟩ := checks_of_memEarlyEnd hearly
        simp [frameOf, memReaches, hgeometry, hrange, Nat.one_le_iff_ne_zero.2 hlen] at hf
      case chipIdle | regWrite | regOr | regAnd | regRead =>
        have hv : validate s = { s with st := .codec } := by simp only [validate, hq, isoReqOf, startCodec, if_true]
        exact hv ▸ .codec hearly nofun
      case eepromRead addr len =>
        have hlen : decide (1 ≤ len.toNat) = true := by
          refine decide_eq_true (Nat.one_le_iff_ne_zero.2 fun h => ?_)
          rw [BitVec.eq_of_toNat_eq (y := 0) h] at hearly
          cases hearly
        have hv : validate s = { s with st := .codec } := by
          simp only [validate, hq, isoReqOf, startCodec, hlen, if_true]
        exact hv ▸ .codec hearly nofun
      all_goals exact absurd hearly (refused_of_no_frame hi hf)

/-! ## R336's bounds, case by case -/

theorem memEarlyEnd_of_memReaches {tag : TagRec} {offset len : Nat} (h : memReaches tag offset len = true) :
    memEarlyEnd tag offset len = none := by
  simp only [memReaches, Bool.and_eq_true, decide_eq_true_eq] at h
  obtain ⟨⟨hgeometry, hrange⟩, hlen⟩ := h
  rw [memEarlyEnd, hgeometry, hrange]
  exact if_neg (Nat.one_le_iff_ne_zero.1 hlen)

/-- A request with a frame to send goes on (30_encoding.md R88). -/
theorem earlyEnd_of_frame {i : Instr} {f : Bytes} (h : frameOf i = some f) : earlyEnd i = none := by
  have hgoes : (if isChipCommand i || (frameOf i).isSome then none else some Cls.badRequest) = none := by simp [h]
  cases i
  case memRead =>
    simp only [frameOf, Option.ite_none_right_eq_some] at h
    obtain ⟨hreaches, -⟩ := h
    exact memEarlyEnd_of_memReaches hreaches
  case memWrite | chipIdle | regWrite | regOr | regAnd | regRead | eepromRead => cases h
  all_goals exact hgoes

theorem bounds_of_frame {i : Instr} {f : Bytes} (h : frameOf i = some f) :
    exchangeBound i = 117 ∧ waitBound i = 51 := by
  have hearly : ¬ (earlyEnd i).isSome = true := by simp [earlyEnd_of_frame h]
  unfold exchangeBound waitBound
  rw [if_neg hearly, if_neg hearly]
  cases i
  case memWrite | chipIdle | regWrite | regOr | regAnd | regRead | eepromRead => cases h
  all_goals exact ⟨rfl, rfl⟩

theorem earlyEnd_of_memReaches {tag : TagRec} {offset : Half} {data : Bytes}
    (h : memReaches tag offset.toNat data.length = true) : earlyEnd (.memWrite tag offset data) = none := by
  have hshort : data.length ≤ 65535 := (length_le_of_memReaches h).trans (by decide)
  rw [earlyEnd_memWrite, if_neg (Nat.not_lt.2 hshort), memEarlyEnd_of_memReaches h]

theorem bounds_of_memReaches {tag : TagRec} {offset : Half} {data : Bytes}
    (h : memReaches tag offset.toNat data.length = true) :
    exchangeBound (.memWrite tag offset data) = 117 * writeBlocks tag offset data ∧
      waitBound (.memWrite tag offset data) = 51 * writeBlocks tag offset data := by
  have hearly : ¬ (earlyEnd (.memWrite tag offset data)).isSome = true := by simp [earlyEnd_of_memReaches h]
  exact ⟨if_neg hearly, if_neg hearly⟩

theorem exchangeBound_of_codec {i : Instr} (h : earlyEnd i = none) (hc : codecExchanges (.op i) ≠ 0) :
    exchangeBound i = codecExchanges (.op i) := by
  unfold exchangeBound
  rw [h]
  cases i
  case chipIdle | regWrite | regOr | regAnd | regRead | eepromRead => rfl
  all_goals exact absurd rfl hc

theorem chunksLeft_startedBy {i : Instr} {f : Bytes} (h : frameOf i = some f) (s : State) :
    chunksLeft (s.startedBy i) = 0 := by
  refine if_neg ?_
  rw [startedBy_rq]
  cases i
  case memWrite => cases h
  all_goals exact nofun

theorem startedBy_supply (i : Instr) (s : State) :
    supply (s.startedBy i) = supply s ∧ (s.startedBy i).now = s.now := by
  cases i <;> exact ⟨rfl, rfl⟩

/-- VALIDATE of a request pays for all that follows. -/
theorem Begins.spends {i : Instr} {s t : State} (h : Begins i s t) (hq : s.rq = .op i) :
    Spends (exchangeBound i) (waitBound i) s t := by
  cases h with
  | ends => exact .publish _ s
  | frame hf =>
    obtain ⟨hx, hw⟩ := bounds_of_frame hf
    obtain ⟨hsupply, hnow⟩ := startedBy_supply i s
    have hone := chunksLeft_startedBy hf s
    exact .enters _ hsupply hnow (by rw [hone, hx]) (by rw [hone, hw])
  | @chunks tag offset data hi hreaches =>
    subst hi
    obtain ⟨hx, hw⟩ := bounds_of_memReaches hreaches
    have hpos : 1 ≤ writeBlocks tag offset data := one_le_blocksOf hreaches
    have hall : chunksLeft (s.writeStarted tag offset data) + 1 = writeBlocks tag offset data := Nat.sub_add_cancel hpos
    exact .enters _ rfl rfl (by rw [hall, hx]) (by rw [hall, hw])
  | codec hearly hc =>
    refine .moved rfl rfl ?_ (Nat.zero_le _) nofun
    simp only [exchangesLeft, hq, exchangeBound_of_codec hearly hc, le_refl]

theorem validate_chipCommand {i : Instr} {s : State} (hi : isChipCommand i = true) (hq : s.rq = .op i) :
    validate s = badRequest s := by
  unfold validate
  rw [hq]
  cases i <;> cases hi <;> rfl

theorem spent_validate {s : State} (h : s.st = .validate) : Spent s (validate s) := by
  cases hq : s.rq with
  | illegal record =>
    simp only [validate, hq]
    exact .publish _ s
  | op i =>
    cases hi : isChipCommand i with
    | true => exact validate_chipCommand hi hq ▸ .publish _ s
    | false =>
      have hleft : exchangesLeft s = exchangeBound i ∧ waitsLeft s = waitBound i := by
        simp [exchangesLeft, waitsLeft, h, hq, latchedBound]
      obtain ⟨hx, hw⟩ := hleft
      rw [Spent, hx, hw]
      exact (begins_validate hi hq).spends hq

/-! ## A whole request -/

theorem spent_seqStep {s : State} (hrun : s.running = true) (hc : OnCourse s) : Spent s (seqStep s) := by
  obtain ⟨hready, hdone, hfault⟩ := running_iff.1 hrun
  unfold OnCourse at hc
  unfold seqStep
  cases hst : s.st <;> rw [hst] at hc <;> dsimp only at hc ⊢
  case ready => exact absurd hst hready
  case done => exact absurd hst hdone
  case fault => exact absurd hst hfault
  case validate => exact spent_validate hst
  case codec => exact spent_codec hst
  case xClr => exact spent_xClr hst
  case xMode => exact spent_xMode hst
  case xChk => exact spent_xChk hst
  case xSend => exact spent_xSend hst
  case xASample => exact spent_xASample hst hc
  case xAWait => exact spent_xAWait hst hc
  case xBSample => exact spent_xBSample hst hc
  case xBWait => exact spent_xBWait hst hc
  case xRxstat => exact spent_xRxstat hst
  case xRxdata => exact spent_xRxdata hst
  case xRestore => exact spent_xRestore hst
  case decode => exact spent_decodeStep s
  case mRead => exact spent_mRead s
  case mWchunk => exact spent_mWchunk hst hc

theorem spent_unitStep {s : State} (h : InProgress s) : Spent s (unitStep s) := by
  refine (takes_sampleRst s).spends (x := exchangesLeft s) h.running (Nat.zero_add _).le fun t hsampled => ?_
  have hex : Exchanged s t := (hsampled ▸ runsFrom_sampleRst s : RunsFrom s (.done t))
  have hrun : t.running = true := by simpa only [running_iff, hex.st] using h.running
  have hcourse : OnCourse t := by simpa only [OnCourse, hex.st, hex.smp, hex.rq] using h.course
  have hleft : exchangesLeft t = exchangesLeft s ∧ waitsLeft t = waitsLeft s := by
    obtain ⟨hchunks, hx, hw⟩ := hex.left
    simp only [exchangesLeft, waitsLeft, hex.st, hex.rq, hchunks, hx, hw, and_self]
  obtain ⟨hx, hw⟩ := hleft
  have hstep := spent_seqStep hrun hcourse
  rwa [Spent, hx, hw] at hstep

/-- Between two steps of a request: what is spent and what is left stay within the bounds, and the unit is in a request
or at rest. -/
def Bounded (x w : Nat) (s t : State) : Prop := Spends x w s t ∧ (AtRest t ∨ InProgress t)

theorem Bounded.unitStep {x w : Nat} {s t : State} (h : Bounded x w s t) (hrun : t.running = true) :
    Bounded x w s (unitStep t) := by
  obtain ⟨hspends, hrest | hin⟩ := h
  · simp [hrest.not_running] at hrun
  · exact ⟨hspends.trans hrun (spent_unitStep hin), ((progress_unitStep hrun).advances hin).imp_right And.left⟩

theorem spends_request {i : Instr} {s : State} (hr : s.req_ready = true) :
    Spends (exchangeBound i) (waitBound i) s (request (.op i) s) := by
  obtain ⟨hfault, -⟩ := ready_fault hr
  have haccept : Bounded (exchangeBound i) (waitBound i) s (accept (.op i) s) :=
    ⟨.moved rfl rfl le_rfl le_rfl nofun, .inr ⟨rfl, hfault, trivial⟩⟩
  rw [request_eq hr]
  obtain ⟨hspends, -⟩ := runSeq_keeps (P := Bounded (exchangeBound i) (waitBound i) s) (fun _ => Bounded.unitStep) _ _
    haccept
  exact hspends

theorem Spends.within {x w : Nat} {s t : State} (h : Spends x w s t) :
    ∃ l : List Xchg, t.log = s.log ++ l ∧ l.length ≤ x ∧ t.now ≤ s.now + w := by
  cases h with
  | goesOn hs hx hw => exact ⟨_, hs.log, by omega, by omega⟩
  | failed hlog hx hw => exact ⟨_, hlog, hx, hw⟩
  | reset hs hx => exact ⟨_, hs.log, hx, Nat.zero_le _⟩

theorem AtRest.st_cases {s : State} (h : AtRest s) : s.st = .ready ∨ s.st = .done ∨ s.st = .fault :=
  not_running_iff.1 h.not_running

/-- Settles O32: the request comes to rest (`atRest_of_accepted`), and what it spends is within R336's bounds. -/
theorem everyRequestEnds : Obligations.EveryRequestEnds := by
  intro i s hi hr
  obtain ⟨l, hlog, hx, hw⟩ := (spends_request (i := i) hr).within
  exact ⟨request (.op i) s, l, exec_request hi s, (atRest_of_accepted hr).st_cases, hlog, hx, hw⟩

end Sys2Proof.Proofs
end

section
/-!
PROOFS. A request abandoned by reset (70_reset_and_hazards.md R320, R322, R323): the reset is the only way a request
ends in READY, and it keeps what stands outside the unit. Of tag memory a request that is no MEM_WRITE leaves all, or
all but what its one frame may change (20_memory.md R72; log 11).
-/

namespace Sys2Proof.Proofs

open Sys2Proof Sys2Proof.Machine

/-! ## Tag memory after a request of at most one transceive -/

/-- What stays known of tag memory from the start of the request's transceive on. -/
def knownAfterStart (i : Instr) (m : Memory) : Memory := ((frameOf i).map fun f => knownAfterFrame f m).getD m

theorem knownAfterStart_of_frame {i : Instr} {f : Bytes} (h : frameOf i = some f) (m : Memory) :
    knownAfterStart i m = knownAfterFrame f m := by
  rw [knownAfterStart, h]
  rfl

theorem knownAfterStart_of_no_frame {i : Instr} (h : frameOf i = none) (m : Memory) : knownAfterStart i m = m := by
  rw [knownAfterStart, h]
  rfl

/-- No MEM_WRITE that reaches the tag, so the request makes at most one transceive. -/
def NoChunks (i : Instr) : Prop :=
  ∀ (tag : TagRec) (offset : Half) (data : Bytes), i = .memWrite tag offset data →
    memReaches tag offset.toNat data.length = false

/-- Between two steps of such a request, begun with the tag memory `m`: it stands before VALIDATE, it goes on without a
further transceive, or it has ended. -/
inductive Sparing (i : Instr) (m : Memory) (t : State) : Prop where
  | waiting : InProgress t → t.st = .validate → t.rq = .op i → t.tag_mem = m → Sparing i m t
  | started : InProgress t → stepsLeft t < Config.maxSteps → returnState t.rq ≠ .mWchunk →
      t.tag_mem = m ∨ t.tag_mem = knownAfterStart i m → Sparing i m t
  | ended : AtRest t → t.tag_mem = m ∨ t.tag_mem = knownAfterStart i m → Sparing i m t

theorem Begins.tag_mem {i : Instr} {s t : State} (h : Begins i s t) (hone : NoChunks i) :
    t.tag_mem = s.tag_mem ∨ t.tag_mem = knownAfterStart i s.tag_mem := by
  cases h with
  | ends | codec => exact .inl rfl
  | @frame f hf =>
    have hmem : (enterTransceive f (s.startedBy i)).tag_mem = knownAfterFrame f s.tag_mem :=
      congrArg (knownAfterFrame f) (startedBy_tag_mem i s)
    exact .inr (hmem.trans (knownAfterStart_of_frame hf _).symm)
  | chunks hi hreaches => exact absurd hreaches (by simp [hone _ _ _ hi])

/-- VALIDATE of a MEM_WRITE that does not reach the tag ends it. -/
theorem Begins.returnState_ne {i : Instr} {s t : State} (h : Begins i s t) (hone : NoChunks i)
    (hq : s.rq = .op i) (hrun : t.running = true) : returnState t.rq ≠ .mWchunk := by
  cases h with
  | ends => simp [publish_not_running] at hrun
  | frame hf =>
    have hrq : (s.startedBy i).rq = .op i := startedBy_rq i s
    rw [enterTransceive_rq, hrq]
    cases i
    case memWrite => cases hf
    all_goals exact nofun
  | chunks hi hreaches => exact absurd hreaches (by simp [hone _ _ _ hi])
  | codec _ hc =>
    rw [show ({ s with st := .codec } : State).rq = .op i from hq]
    cases i
    case memWrite => exact absurd rfl hc
    all_goals exact nofun

section Sparing

variable {i : Instr} {m : Memory} {s : State}

/-- VALIDATE, after the sampling of `rst`. -/
theorem sparing_seqStep_validate (hi : isChipCommand i = false) (hone : NoChunks i) (h : InProgress s)
    (hst : s.st = .validate) (hq : s.rq = .op i) (hm : s.tag_mem = m) : Sparing i m (seqStep s) := by
  have hv : seqStep s = validate s := by rw [seqStep, hst]
  rw [hv]
  have hbegins := begins_validate hi hq
  have hmem := hm ▸ hbegins.tag_mem hone
  rcases (progress_validate hst).advances h with hrest | ⟨hin, hlt⟩
  · exact .ended hrest hmem
  · exact .started hin (stepsLeft_validate hst ▸ hlt) (hbegins.returnState_ne hone hq hin.running) hmem

/-- Every later step leaves tag memory, since none of them is M_WCHUNK's. -/
theorem spares_started (h : InProgress s) (hlt : stepsLeft s < Config.maxSteps) (hq : returnState s.rq ≠ .mWchunk) :
    Spares s (unitStep s) := by
  refine (runsFrom_sampleRst s).spares (sampleRst_tag_mem s) fun t ht => ?_
  refine spares_seqStep (fun hv => ?_) fun hw => ?_
  · rw [stepsLeft_validate (ht.st.symm.trans hv)] at hlt
    exact Nat.lt_irrefl _ hlt
  · exact hq (by simpa only [OnCourse, ← ht.st, hw] using h.course)

theorem sparing_unitStep (hi : isChipCommand i = false) (hone : NoChunks i) (h : Sparing i m s)
    (hrun : s.running = true) : Sparing i m (unitStep s) := by
  cases h with
  | waiting hin hst hq hm =>
    unfold unitStep
    rcases sampleRst_cases s with ⟨-, h⟩ | ⟨n, rest, -, h⟩ | ⟨rest, -, h⟩ <;> rw [h]
    · exact sparing_seqStep_validate hi hone hin hst hq hm
    · have hnearer : InProgress { s with rst := n :: rest } := ⟨hin.running, hin.fault, hin.course⟩
      exact sparing_seqStep_validate hi hone hnearer hst hq hm
    · exact .ended (atRest_takeReset _) (.inl hm)
  | started hin hlt hret hm =>
    obtain ⟨hmem, hrq⟩ := spares_started hin hlt hret
    rw [← hmem] at hm
    rcases (progress_unitStep hrun).advances hin with hrest | ⟨hin', hlt'⟩
    · exact .ended hrest hm
    · rcases hrq with hrq | hrest
      · exact .started hin' (hlt'.trans hlt) (hrq ▸ hret) hm
      · exact .ended hrest hm
  | ended hrest => simp [hrest.not_running] at hrun

end Sparing

/-- However such a request ends, tag memory is as before or less what its frame may change. -/
theorem request_tag_mem_cases {i : Instr} {s : State} (hi : isChipCommand i = false) (hone : NoChunks i)
    (hr : s.req_ready = true) : (request (.op i) s).tag_mem = s.tag_mem ∨
      (request (.op i) s).tag_mem = knownAfterStart i s.tag_mem := by
  obtain ⟨hfault, -⟩ := ready_fault hr
  have hrun : (request (.op i) s).running = false := request_not_running hr
  have hsparing : Sparing i s.tag_mem (request (.op i) s) := by
    rw [request_eq hr]
    exact runSeq_keeps (fun _ => sparing_unitStep hi hone) _ _ (.waiting ⟨rfl, hfault, trivial⟩ rfl rfl rfl)
  cases hsparing with
  | waiting hin | started hin => simp [hin.running] at hrun
  | ended _ hm => exact hm

theorem request_tag_mem_of_no_frame {i : Instr} {s : State} (hi : isChipCommand i = false) (hone : NoChunks i)
    (hf : frameOf i = none) (hr : s.req_ready = true) : (request (.op i) s).tag_mem = s.tag_mem := by
  have hmem := request_tag_mem_cases hi hone hr
  rwa [knownAfterStart_of_no_frame hf, or_self] at hmem

/-- A MEM_WRITE has some of its blocks stored, none where it does not reach the tag. -/
theorem exists_blocksStored_request {tag : TagRec} {offset : Half} {data : Bytes} {s : State}
    (hr : s.req_ready = true) :
    ∃ m : Nat, blocksStored tag offset data m s.tag_mem (request (.op (.memWrite tag offset data)) s).tag_mem := by
  cases hreaches : memReaches tag offset.toNat data.length with
  | true => exact (storing_request hreaches hr).exists_blocksStored
  | false =>
    have hone : NoChunks (.memWrite tag offset data) := by
      rintro _ _ _ ⟨⟩
      exact hreaches
    rw [request_tag_mem_of_no_frame rfl hone rfl hr]
    exact ⟨0, blocksStored_zero _⟩

/-! ## The abandoned request -/

/-- What a reset leaves of a request in progress. -/
theorem Spends.of_ready {x w : Nat} {s t : State} (h : Spends x w s t) (hst : t.st = .ready) :
    ∃ l : List Xchg, s.rst ≠ [] ∧ Returned l ∧ t = { State.reset with
      host := t.host, rst := s.rst.tail, session := t.session, events := t.events, tag_mem := t.tag_mem,
      chip_in := s.chip_in.drop l.length, nx := s.nx + l.length, log := s.log ++ l } := by
  cases h with
  | goesOn _ _ _ hne => exact absurd hst hne
  | failed _ _ _ hfault => cases hst.symm.trans hfault
  | @reset v l rest hs _ hrun hrst =>
    have htail : rest = s.rst.tail := by rw [← hs.tail, hrst]; rfl
    refine ⟨l, fun hnil => by simp [hs.none_to_come hnil] at hrst, hs.returned, ?_⟩
    rw [← htail, ← hs.chip_in, ← hs.nx, ← hs.log]
    have himg : (takeReset { v with rst := rest }).chip_img = [] := if_pos hrun
    exact congrArg (fun img => { takeReset { v with rst := rest } with chip_img := img }) himg

/-- Settles O36: the state is a reset's (`Spends.of_ready`), and its tag memory is what the request left. -/
theorem resetDuringRequest : Obligations.ResetDuringRequest := by
  intro i s t hi hr h hst
  rw [exec_request hi] at h
  cases h
  obtain ⟨l, hrst, hret, ht⟩ := (spends_request (i := i) hr).of_ready hst
  have hext := extends_request (.op i) s
  rw [hext.host, hext.session, hext.events] at ht
  refine ⟨l, (request (.op i) s).tag_mem, hrst, hret, fun hk => request_tag_mem hk s, fun f hf => ?_,
    fun tag offset data hw => ?_, fun hf hw => ?_, ht⟩
  · have hone : NoChunks i := by
      rintro tag offset data rfl
      cases hf
    rw [← knownAfterStart_of_frame hf]
    exact request_tag_mem_cases hi hone hr
  · subst hw
    exact exists_blocksStored_request hr
  · exact request_tag_mem_of_no_frame hi (fun tag offset data h => absurd h (hw tag offset data)) hf hr

end Sys2Proof.Proofs
end
